-- ==== Sys2Proof/Word.lean ====
section
/-! DEFINITION. The words of CORE: operand, command word, wire byte and digit code, the two formats of the opcode
table, and the place at which a coded word stands. -/

namespace Sys2Proof

/-- A wire byte, format BUS8 (30_encoding.md R98, R102). -/
abbrev Byte := BitVec 8

/-- The 18-bit command word `cmd_word`, format CW (30_encoding.md R90). -/
abbrev CmdWord := BitVec 18

/-- The operand `arg` of a command word (30_encoding.md R91). -/
abbrev Arg := BitVec 16

/-- A digit code: 0 to 9, or BLANK = 0xF (30_encoding.md R101). -/
abbrev DigitCode := BitVec 4

/-- A coded word in one of the two formats of `opcode_table.json` (30_encoding.md R103). -/
inductive Code where
  /-- a command word on the command port -/
  | cw (w : CmdWord)
  /-- a byte on the display bus -/
  | bus8 (b : Byte)
  deriving DecidableEq, Repr

/-- Where a coded word stands. The position decides how a byte is read: the table's DUMMY and SEG_BLANK have the same
bits, "told apart by position in the frame only" (opcode_table.json; 43_serialize.md R181). -/
inductive Slot where
  /-- the command port -/
  | port
  /-- the first byte of a strobe-low window: a command byte (30_encoding.md R98) -/
  | first
  /-- a later byte at an even offset from the start address: a digit pattern (20_memory.md R62) -/
  | pattern
  /-- a later byte at an odd offset: the dummy zero byte (20_memory.md R62) -/
  | dummy
  deriving DecidableEq, Repr

/-- The slot of byte number `n` of a transaction, counted from 0 (30_encoding.md R98, 20_memory.md R62): byte 1 is
data byte 0. -/
def Slot.ofIndex : Nat → Slot
  | 0 => .first
  | n + 1 => if n % 2 = 0 then .pattern else .dummy

end Sys2Proof
end

