-- ==== Sys2Proof/Syntax.lean ====
section
/-! DEFINITION. The syntax: one constructor per row of opcode_table.json. -/

namespace Sys2Proof

/-- The 19 rows of `opcode_table.json`: four command words (format CW) and fifteen wire bytes (format BUS8). The `arg`
field that NOP, MEASURE and RSVD3 ignore is kept, so that every 18-bit word is some instruction and no bit of it is
dropped (30_encoding.md R93, R94). -/
inductive Instr where
  /-- NOP, `op` = 0b00 (40_command.md R124) -/
  | nop (arg : Arg)
  /-- MEASURE, `op` = 0b01 (40_command.md R122) -/
  | measure (arg : Arg)
  /-- RENDER `arg`, `op` = 0b10 (40_command.md R123) -/
  | render (arg : Arg)
  /-- RSVD3, the reserved code `op` = 0b11 (40_command.md R125) -/
  | rsvd3 (arg : Arg)
  /-- CMD_DATA, "auto-increment write mode" (30_encoding.md R99) -/
  | cmdData
  /-- CMD_ADDR, the start address (30_encoding.md R99) -/
  | cmdAddr
  /-- CMD_DISP, "display on, max brightness" (30_encoding.md R99) -/
  | cmdDisp
  /-- DUMMY, the zero byte after each of the first three patterns (43_serialize.md R182) -/
  | dummy
  /-- SEG0 to SEG9, the digit patterns (42_digits.md R165) -/
  | seg0
  | seg1
  | seg2
  | seg3
  | seg4
  | seg5
  | seg6
  | seg7
  | seg8
  | seg9
  /-- SEG_BLANK, the all-off pattern (42_digits.md R166) -/
  | segBlank
  deriving DecidableEq, Repr

end Sys2Proof
end

