-- ==== Sys2Proof/WellFormed.lean ====
section
/-! DEFINITION. When an instruction may stand at a place. Every operand value is legal (30_encoding.md R93, R94); what
can be wrong is the place. -/

namespace Sys2Proof

/-- `i` may stand in slot `slot`: command words on the command port, command bytes first in a strobe window, patterns
at even data offsets, the dummy byte at odd ones (30_encoding.md R98, R103; 43_serialize.md R181). -/
def Instr.wellFormed (slot : Slot) : Instr → Bool
  | .nop _ | .measure _ | .render _ | .rsvd3 _ => slot = .port
  | .cmdData | .cmdAddr | .cmdDisp => slot = .first
  | .dummy => slot = .dummy
  | .seg0 | .seg1 | .seg2 | .seg3 | .seg4 | .seg5 | .seg6 | .seg7 | .seg8 | .seg9 | .segBlank => slot = .pattern

end Sys2Proof
end

