-- ==== Sys2Proof/Decode.lean ====
section
/-! DEFINITION. The decoders (30_encoding.md R94, R103): the host side's, total on the 18-bit words, and the display
sink's, which recognises a byte by its position; then the encoder. -/

namespace Sys2Proof

/-- Why a coded word is no instruction at its place. -/
inductive Reject where
  /-- a bus byte presented on the command port -/
  | busByteAtPort
  /-- a command word on the bus, whose words are bytes -/
  | commandWordOnBus
  /-- the first byte of a strobe window is none of CMD_DATA, CMD_ADDR, CMD_DISP -/
  | noCommandByte
  /-- a byte at an even data offset is none of the eleven patterns -/
  | noPattern
  /-- a byte at an odd data offset is not 0x00 -/
  | noDummy
  deriving DecidableEq, Repr

/-- The host side's decoder: bits 17:16 select, every word is legal (30_encoding.md R92, R94). -/
def decodeCW (w : CmdWord) : Instr :=
  let op := w.extractLsb' 16 2
  let arg := w.extractLsb' 0 16
  if op = 0b00#2 then .nop arg
  else if op = 0b01#2 then .measure arg
  else if op = 0b10#2 then .render arg
  else .rsvd3 arg

/-- The pattern rows of the table: match values of SEG0 to SEG9 and SEG_BLANK (42_digits.md R165, R166). -/
def patternRows : List (Byte × Instr) :=
  [(0x3F, .seg0), (0x06, .seg1), (0x5B, .seg2), (0x4F, .seg3), (0x66, .seg4), (0x6D, .seg5), (0x7D, .seg6),
   (0x07, .seg7), (0x7F, .seg8), (0x6F, .seg9), (0x00, .segBlank)]

/-- The command-byte rows of the table (30_encoding.md R99). -/
def commandRows : List (Byte × Instr) :=
  [(0x40, .cmdData), (0xC0, .cmdAddr), (0x8F, .cmdDisp)]

/-- The first row whose match value is `b`. -/
def lookupRow (b : Byte) : List (Byte × Instr) → Option Instr
  | [] => none
  | (m, i) :: rows => if b = m then some i else lookupRow b rows

/-- The display sink's decoder: a byte, read by its position. -/
def decodeBus (slot : Slot) (b : Byte) : Except Reject Instr :=
  match slot with
  | .port => .error .busByteAtPort
  | .first => (lookupRow b commandRows).elim (.error .noCommandByte) .ok
  | .pattern => (lookupRow b patternRows).elim (.error .noPattern) .ok
  | .dummy => if b = 0x00#8 then .ok .dummy else .error .noDummy

/-- The decoder, total on every coded word at every place. -/
def decode (slot : Slot) : Code → Except Reject Instr
  | .cw w => if slot = .port then .ok (decodeCW w) else .error .commandWordOnBus
  | .bus8 b => decodeBus slot b

/-- The encoder, from the table's encodings: `op` above `arg` for CW (30_encoding.md R90, R92), the fixed byte for
BUS8. -/
def encode : Instr → Code
  | .nop a => .cw (0b00#2 ++ a)
  | .measure a => .cw (0b01#2 ++ a)
  | .render a => .cw (0b10#2 ++ a)
  | .rsvd3 a => .cw (0b11#2 ++ a)
  | .cmdData => .bus8 0b0100_0000#8
  | .cmdAddr => .bus8 0b1100_0000#8
  | .cmdDisp => .bus8 0b1000_1111#8
  | .dummy => .bus8 0b0000_0000#8
  | .seg0 => .bus8 0b0011_1111#8
  | .seg1 => .bus8 0b0000_0110#8
  | .seg2 => .bus8 0b0101_1011#8
  | .seg3 => .bus8 0b0100_1111#8
  | .seg4 => .bus8 0b0110_0110#8
  | .seg5 => .bus8 0b0110_1101#8
  | .seg6 => .bus8 0b0111_1101#8
  | .seg7 => .bus8 0b0000_0111#8
  | .seg8 => .bus8 0b0111_1111#8
  | .seg9 => .bus8 0b0110_1111#8
  | .segBlank => .bus8 0b0000_0000#8

/-- The slot in which a byte is read when no position comes with it: a command byte as the first of its window, any
other as the first data byte. DESIGN CHOICE (log 6): so 0x00 alone reads SEG_BLANK, never DUMMY. -/
def slotAlone (b : Byte) : Slot :=
  if (lookupRow b commandRows).isSome then .first else .pattern

/-- The decoder on a table word of `nbits` bits: a bus byte up to 8 bits, else a command word. Bits above the format's
width are on no port: such a word is refused (log 12). -/
def decodeTableWord (nbits w : Nat) : Option Instr :=
  if nbits ≤ 8 then
    if w < 2 ^ 8 then (decode (slotAlone (BitVec.ofNat 8 w)) (.bus8 (BitVec.ofNat 8 w))).toOption else none
  else if w < 2 ^ 18 then (decode .port (.cw (BitVec.ofNat 18 w))).toOption
  else none

end Sys2Proof
end

