-- ==== Sys2Proof/Config.lean ====
section
/-! DEFINITION. What an implementation fixes (the configuration record) and the free values, constants without a body.
The values this hardware has stand in Machine/Hardware.lean. -/

namespace Sys2Proof

/-- The segments of a digit: a to g and the decimal point (30_encoding.md R100). -/
inductive Segment where
  /-- top -/
  | a
  /-- upper right -/
  | b
  /-- lower right -/
  | c
  /-- bottom -/
  | d
  /-- lower left -/
  | e
  /-- upper left -/
  | f
  /-- middle -/
  | g
  /-- decimal point -/
  | dp
  deriving DecidableEq, Repr

/-- The bit-to-segment map: which bit of a pattern is each segment (30_encoding.md R100, 92_eei_decisions.md D33). -/
structure SegmentBits where
  a : Fin 8
  b : Fin 8
  c : Fin 8
  d : Fin 8
  e : Fin 8
  f : Fin 8
  g : Fin 8
  dp : Fin 8
  deriving DecidableEq, Repr

/-- The bit of a segment. -/
def SegmentBits.bit (m : SegmentBits) : Segment → Fin 8
  | .a => m.a
  | .b => m.b
  | .c => m.c
  | .d => m.d
  | .e => m.e
  | .f => m.f
  | .g => m.g
  | .dp => m.dp

/-- "one bit per segment" (30_encoding.md R100): no bit is two segments. -/
abbrev SegmentBits.wf (m : SegmentBits) : Prop := [m.a, m.b, m.c, m.d, m.e, m.f, m.g, m.dp].Nodup

/-- The build-time constants a model takes as configuration fields (00_scope.md R6, R7; 92_eei_decisions.md D33): the
bytes and the bit-to-segment map the source describes by function only, and the four hold times it gives as minimums. -/
structure Config where
  /-- `SEG[0..9]`, the segment patterns (42_digits.md R165) -/
  seg : Vector Byte 10
  /-- `CMD_DATA` (30_encoding.md R99) -/
  cmdData : Byte
  /-- `CMD_ADDR` (30_encoding.md R99) -/
  cmdAddr : Byte
  /-- `CMD_DISP` (30_encoding.md R99) -/
  cmdDisp : Byte
  /-- which bit of a pattern is which segment (30_encoding.md R100) -/
  segments : SegmentBits
  /-- `T_STB`, ticks of settle after a strobe edge (43_serialize.md R184) -/
  tStb : Nat
  /-- `T_DSU`, ticks of data set-up (43_serialize.md R187) -/
  tDsu : Nat
  /-- `T_CKH`, ticks of clock high (43_serialize.md R187) -/
  tCkh : Nat
  /-- `T_CKL`, ticks of clock low (43_serialize.md R187) -/
  tCkl : Nat
  deriving DecidableEq, Repr

/-- A hold time no smaller than its minimum and no larger than the 4-bit `HOLD` can count (10_state.md R38).
DESIGN CHOICE (safe, log 4): R38 lets a model with larger times widen the field; this one bounds the times. -/
abbrev Config.holdOk (minimum t : Nat) : Prop := minimum ≤ t ∧ t ≤ 16

/-- The four hold times are lower bounds (00_scope.md R7). -/
abbrev Config.wf (c : Config) : Prop :=
  Config.holdOk 10 c.tStb ∧ Config.holdOk 2 c.tDsu ∧ Config.holdOk 5 c.tCkh ∧ Config.holdOk 5 c.tCkl

/-! Free values: uninterpreted constants, so that no proof can know a value of one. Those of a step are functions of the
model's counter `State.tick` (log 2). -/

/-- `rst` at a tick past the end of the listed inputs (log 1; U1, 00_scope.md R10). -/
opaque Config.freeRst : Nat → Bool

/-- `cmd_valid` at a tick past the end of the listed inputs (log 1). -/
opaque Config.freeCmdValid : Nat → Bool

/-- `cmd_word` at a tick past the end of the listed inputs (log 1). -/
opaque Config.freeCmdWord : Nat → CmdWord

/-- `echo` at a tick past the end of the listed inputs (log 1; U1: "`echo` is a free input of every step"). -/
opaque Config.freeEcho : Nat → Bool

/-- The column a data byte goes to when no address is in force (log 9). -/
opaque Config.freeColumn : Nat → Nat

/-- The display's address register after an event whose effect on it no rule gives (log 9, log 10). -/
opaque Config.freeAddr : Nat → Nat

/-- The display's write mode after an event whose effect on it no rule gives (log 10). -/
opaque Config.freeAutoInc : Nat → Bool

/-- Whether the display is on after an event whose effect on it no rule gives (log 10). -/
opaque Config.freeOn : Nat → Bool

/-- The display's brightness after an event whose effect on it no rule gives (log 10). -/
opaque Config.freeLevel : Nat → BitVec 3

/-- The weight in `join` of the digit codes 0xA to 0xE, for which 42_digits.md R168 gives none (log 17). -/
opaque Config.freeWeight : DigitCode → Nat

/-- The open parameter P1, in whole megahertz less one (70_reset_and_hazards.md R262 (b)). -/
opaque Config.freeClockMHz : Nat

/-- `CLK_HZ`, a positive integer multiple of 1 000 000 (00_scope.md R6, 70_reset_and_hazards.md R262 (b)). No step
depends on it (log 15). -/
def Config.clkHz : Nat := (Config.freeClockMHz + 1) * 1000000

/-- What the prescaler counts per tick (70_reset_and_hazards.md R262 (b)). -/
def Config.clocksPerTick : Nat := Config.clkHz / 1000000

/-- `SYNC_STAGES`, flip-flops between the echo pin and `echo`, below the level of the model (70_reset_and_hazards.md
R263; log 15). -/
def Config.syncStages : Nat := 2

end Sys2Proof
end

