-- ==== Sys2Proof/Machine/State.lean ====
section
/-! DEFINITION. The state: the 20 fields of CORE, the display sink attached to its pins, the inputs still to be
sampled, and the state after reset. All of it is plain data. -/

namespace Sys2Proof.Machine

/-- `MPH`, the phase of the echo-timing engine (10_state.md R23). -/
inductive Phase where
  /-- 0 M_IDLE -/
  | idle
  /-- 1 M_TRIG -/
  | trigger
  /-- 2 M_WAIT_RISE -/
  | waitRise
  /-- 3 M_WAIT_FALL -/
  | waitFall
  deriving DecidableEq, Repr

/-- `SUB`, the sub-phase of the bit on the wire (10_state.md R37). Code 3 is never written and has no constructor
(log 14). -/
inductive SubPhase where
  /-- 0 SETUP -/
  | setup
  /-- 1 HIGH -/
  | high
  /-- 2 LOW -/
  | low
  deriving DecidableEq, Repr

/-- The state record of CORE: the 20 fields of 10_state.md R20. -/
structure Regs where
  /-- `MPH` (R23) -/
  mph : Phase
  /-- `TCNT` (R24) -/
  tcnt : BitVec 4
  /-- `WCNT` (R25) -/
  wcnt : BitVec 10
  /-- `DCNT` (R26) -/
  dcnt : BitVec 15
  /-- `DUR` (R27) -/
  dur : BitVec 15
  /-- `DIST` (R28) -/
  dist : BitVec 16
  /-- `MDONE` (R40) -/
  mdone : Bool
  /-- `TRIG` (R29) -/
  trig : Bool
  /-- `VAL` (R30) -/
  val : Arg
  /-- `DIGIT[0..3]` (R31) -/
  digit : Vector DigitCode 4
  /-- `FB[0..9]` (R33) -/
  fb : Vector Byte 10
  /-- `RBUSY` (R34) -/
  rbusy : Bool
  /-- `RSEQ` (R35) -/
  rseq : BitVec 4
  /-- `BITIX` (R36) -/
  bitix : BitVec 3
  /-- `SUB` (R37) -/
  sub : SubPhase
  /-- `HOLD` (R38) -/
  hold : BitVec 4
  /-- `STB` (R39) -/
  stb : Bool
  /-- `DCLK` (R39) -/
  dclk : Bool
  /-- `DIO` (R39) -/
  dio : Bool
  /-- `RDONE` (R40) -/
  rdone : Bool
  deriving DecidableEq, Repr

/-- The code BLANK, 0xF (00_scope.md R6, 30_encoding.md R101). -/
abbrev blank : DigitCode := 0xF#4

/-- RESET_STATE (10_state.md R20, last column; 70_reset_and_hazards.md R251). -/
def Regs.reset : Regs where
  mph := .idle
  tcnt := 0
  wcnt := 0
  dcnt := 0
  dur := 0
  dist := 0
  mdone := false
  trig := false
  val := 0
  digit := #v[0xF, 0xF, 0xF, 0xF]
  fb := #v[0, 0, 0, 0, 0, 0, 0, 0, 0, 0]
  rbusy := false
  rseq := 0
  bitix := 0
  sub := .setup
  hold := 0
  stb := true
  dclk := false
  dio := false
  rdone := false

/-- The input record of one step (00_scope.md R8, 10_state.md R46). -/
structure Inputs where
  rst : Bool
  cmdValid : Bool
  cmdWord : CmdWord
  echo : Bool
  deriving DecidableEq, Repr

/-- A byte store: (address, byte) pairs, addresses strictly rising (`Memory.wf`, Machine/Ops.lean). An address that is
not listed has no known value (log 8). -/
abbrev Memory := List Host.Cell

/-- The receiver of 43_serialize.md R196. -/
structure Receiver where
  /-- the bytes of the open transaction; none when no transaction is open -/
  trans : Option (List Byte)
  /-- the pending bits, first taken first -/
  bits : List Bool
  /-- the closed transactions, oldest first: `Rx` of the trace so far -/
  closed : List (List Byte)
  deriving DecidableEq, Repr

/-- The display sink attached to the pins (20_memory.md R61): outside CORE, driven by `stb`, `dclk`, `dio` only. -/
structure Display where
  /-- the receiver (43_serialize.md R196) -/
  rx : Receiver
  /-- in auto-increment write mode (20_memory.md R61) -/
  autoInc : Bool
  /-- where the next data byte goes (20_memory.md R61) -/
  addr : Nat
  /-- switched on (30_encoding.md R99) -/
  on : Bool
  /-- brightness level (30_encoding.md R99) -/
  level : BitVec 3
  /-- the column store, written byte by byte (20_memory.md R60 to R62, R69) -/
  ram : Memory
  /-- the columns as last latched, which the device goes on showing (20_memory.md R75, 70_reset_and_hazards.md R255) -/
  latched : Memory
  deriving DecidableEq, Repr

/-- The display sink before the first frame. DESIGN CHOICE (unsafe, log 7): U9 leaves the device's state open; the model
names all zero, nothing received and no column known. -/
def Display.reset : Display where
  rx := { trans := none, bits := [], closed := [] }
  autoInc := false
  addr := 0
  on := false
  level := 0
  ram := []
  latched := []

/-- Why a step faults: never. CORE raises no exception and its step is total (60_exceptions.md R220), so there is no
constructor. Safe. -/
inductive Fault where
  deriving DecidableEq, Repr

/-- Why a step is refused. -/
inductive Refusal where
  /-- raised by an arm of `exec` whose instruction has no meaning yet: by none here. Safe. -/
  | notModelled (mnemonic : String)
  deriving DecidableEq, Repr

/-- The machine: CORE, the display sink on its pins, and the environment's inputs. -/
structure State where
  /-- CORE's own state (10_state.md R20) -/
  core : Regs
  /-- the display sink (20_memory.md R61) -/
  disp : Display
  /-- the input records still to be sampled, one a step, oldest first; past the end every input is free (log 1) -/
  inputs : List Inputs
  /-- steps taken: the index of the free values (log 2) -/
  tick : Nat
  deriving DecidableEq, Repr

/-- The state after reset (70_reset_and_hazards.md R251, R252): CORE in RESET_STATE, no input listed. -/
def State.reset : State where
  core := Regs.reset
  disp := Display.reset
  inputs := []
  tick := 0

/-- The answer of a meaning or of a step. -/
abbrev Answer := Host.Outcome State Fault Refusal

end Sys2Proof.Machine
end

