-- ==== Sys2Proof/Machine/Command.lean ====
section
/-! DEFINITION. The two command words that change nothing (40_command.md R124, R125). -/

namespace Sys2Proof.Machine

/-- NOP, accepted: s_{k+1} = s_k (40_command.md R124). -/
def execNop (_arg : Arg) (s : State) : Answer := .next s

/-- RSVD3, accepted: same as NOP (40_command.md R125). -/
def execRsvd3 (_arg : Arg) (s : State) : Answer := .next s

end Sys2Proof.Machine
end

