-- ==== Sys2Proof/Machine/Flags.lean ====
section
/-! DEFINITION. The flags (10_state.md R40, R41): the two sticky completion flags and BUSY. There are no condition codes
and no error flag (60_exceptions.md R221). -/

namespace Sys2Proof.Machine

/-- BUSY(s), a function of the state (10_state.md R41). -/
def Regs.busy (r : Regs) : Bool := r.mph ≠ .idle || r.rbusy

/-- `MDONE <- 1`, by the finishing step of a measurement (41_measure.md R142). -/
def Regs.setMdone (r : Regs) : Regs := { r with mdone := true }
/-- `MDONE <- 0`, by the acceptance of a MEASURE (40_command.md R122). -/
def Regs.clearMdone (r : Regs) : Regs := { r with mdone := false }
/-- `RDONE <- 1`, by the last step of a frame (43_serialize.md R190). -/
def Regs.setRdone (r : Regs) : Regs := { r with rdone := true }
/-- `RDONE <- 0`, by the acceptance of a RENDER (40_command.md R123). -/
def Regs.clearRdone (r : Regs) : Regs := { r with rdone := false }

end Sys2Proof.Machine
end

