-- ==== Sys2Proof/Machine/Hardware.lean ====
section
/-! DEFINITION. The parameter values this hardware has (00_scope.md R6): the exact constants and the configuration. -/

namespace Sys2Proof.Machine

/-- `T_TRIG`, ticks of the trigger pulse, exact (41_measure.md R137). -/
abbrev tTrig : Nat := 10
/-- `N_RISE`, samples of the wait (41_measure.md R139). -/
abbrev nRise : Nat := 1000
/-- `N_FALL`, the cap of the duration (41_measure.md R141). -/
abbrev nFall : Nat := 30000
/-- `DIVISOR`, microseconds per centimetre (41_measure.md R143). -/
abbrev divisor : Nat := 58
/-- `VAL_MAX` (42_digits.md R160). -/
abbrev valMax : Nat := 9999
/-- `SEG_BLANK`, from the source (42_digits.md R166). -/
abbrev segBlankPattern : Byte := 0x00#8

/-- The configuration of this hardware. `SEG`, the three command bytes and the bit-to-segment map are PRESUMED
(unsafe, log 3): the spec takes them from general knowledge (93_implementation_defined.md G1 to G5). The hold times are
exactly the minimums (00_scope.md R7). -/
def hardware : Config where
  seg := #v[0x3F, 0x06, 0x5B, 0x4F, 0x66, 0x6D, 0x7D, 0x07, 0x7F, 0x6F]
  cmdData := 0x40
  cmdAddr := 0xC0
  cmdDisp := 0x8F
  segments := { a := 0, b := 1, c := 2, d := 3, e := 4, f := 5, g := 6, dp := 7 }
  tStb := 10
  tDsu := 2
  tCkh := 5
  tCkl := 5

end Sys2Proof.Machine
end

