-- ==== Sys2Proof/Machine/Ops.lean ====
section
/-! DEFINITION. The shared operations: the byte store, the pins, sampling the inputs, reset, holds, and sequencing two
answers. There is no operation that takes an exception and none that returns from one: CORE has neither
(60_exceptions.md R220, R226); what cuts an operation short is `State.takeReset`. -/

namespace Sys2Proof.Machine

/-- The canonical form of a byte store: addresses strictly rising. -/
abbrev Memory.wf (m : Memory) : Prop := (m.map Prod.fst).Pairwise (· < ·)

/-- The canonical form of the display's two stores. -/
abbrev Display.wf (d : Display) : Prop := d.ram.wf ∧ d.latched.wf

/-- The byte at address `a`; none when no byte there is known (log 8). -/
def Memory.readByte : Memory → Nat → Option Byte
  | [], _ => none
  | (k, b) :: m, a => if a = k then some b else Memory.readByte m a

/-- The store with byte `b` at address `a`: the one write width is 8 bits (20_memory.md R68). -/
def Memory.writeByte : Memory → Nat → Byte → Memory
  | [], a, b => [(a, b)]
  | (k, x) :: m, a, b =>
    if a < k then (a, b) :: (k, x) :: m
    else if a = k then (a, b) :: m
    else (k, x) :: Memory.writeByte m a b

/-- The three display pins (10_state.md R45). -/
structure Pins where
  stb : Bool
  dclk : Bool
  dio : Bool
  deriving DecidableEq, Repr

/-- The pin levels of a state: Moore outputs (10_state.md R45). -/
def Regs.pins (r : Regs) : Pins where
  stb := r.stb
  dclk := r.dclk
  dio := r.dio

/-- Start a hold of `n` ticks: `HOLD <- n - 1` (00_scope.md R14, 43_serialize.md R183). -/
def Regs.startHold (r : Regs) (n : Nat) : Regs := { r with hold := BitVec.ofNat 4 (n - 1) }

/-- The next input record past the listed ones: every port free (U1; log 1). -/
def freeInputs (n : Nat) : Inputs where
  rst := Config.freeRst n
  cmdValid := Config.freeCmdValid n
  cmdWord := Config.freeCmdWord n
  echo := Config.freeEcho n

/-- The input record sampled at this step (00_scope.md R8). -/
def State.sample (s : State) : Inputs :=
  match s.inputs with
  | [] => freeInputs s.tick
  | i :: _ => i

/-- The state with this step's input record used up. -/
def State.consume (s : State) : State := { s with inputs := s.inputs.tail, tick := s.tick + 1 }

/-- Reset: CORE goes to RESET_STATE whatever its state (70_reset_and_hazards.md R250); the display keeps what it has
(R255). -/
def State.takeReset (s : State) : State := { s with core := Regs.reset }

/-- Go on with `f` from the next state; a stop stays a stop. -/
def andThen (o : Answer) (f : State → Answer) : Answer :=
  match o with
  | .next s => f s
  | .fault r => .fault r
  | .refused r => .refused r

end Sys2Proof.Machine
end

