-- ==== Sys2Proof/Machine/Measure.lean ====
section
/-! DEFINITION. The echo-timing engine (41_measure.md): MEASURE at acceptance and the three phases after it. -/

namespace Sys2Proof.Machine

/-- `distance(d)` = d / 58, floor division (41_measure.md R143). -/
def distance (d : Nat) : Nat := d / divisor

/-- `start_measure` (40_command.md R122). -/
def Regs.startMeasure (r : Regs) : Regs :=
  { r.clearMdone with mph := .trigger, trig := true, tcnt := 0, wcnt := 0, dcnt := 0 }

/-- M_TRIG: the trigger stays high for `T_TRIG` ticks (41_measure.md R137). -/
def Regs.triggerTick (r : Regs) : Regs :=
  if r.tcnt.toNat = tTrig - 1 then { r with trig := false, tcnt := 0, mph := .waitRise }
  else { r with tcnt := r.tcnt + 1 }

/-- M_WAIT_RISE: poll first, then compare and count (41_measure.md R139). -/
def Regs.waitRiseTick (echo : Bool) (r : Regs) : Regs :=
  if echo then { r with dcnt := 1, mph := .waitFall }
  else if r.wcnt.toNat = nRise - 1 then { r with wcnt := BitVec.ofNat 10 nRise, mph := .waitFall }
  else { r with wcnt := r.wcnt + 1 }

/-- The finishing step (41_measure.md R142). -/
def Regs.finish (d : BitVec 15) (r : Regs) : Regs :=
  { r.setMdone with dcnt := d, dur := d, dist := BitVec.ofNat 16 (distance d.toNat), mph := .idle }

/-- M_WAIT_FALL: poll first; a low sample finishes, the 30000th high sample saturates (41_measure.md R141). -/
def Regs.waitFallTick (echo : Bool) (r : Regs) : Regs :=
  if !echo then r.finish r.dcnt
  else if r.dcnt.toNat = nFall - 1 then r.finish (BitVec.ofNat 15 nFall)
  else { r with dcnt := r.dcnt + 1 }

/-- `step_measure` (41_measure.md R136). In M_IDLE, where the dispatcher never calls it, nothing changes (log 14). -/
def Regs.stepMeasure (echo : Bool) (r : Regs) : Regs :=
  match r.mph with
  | .idle => r
  | .trigger => r.triggerTick
  | .waitRise => r.waitRiseTick echo
  | .waitFall => r.waitFallTick echo

/-- MEASURE, accepted (40_command.md R122). `arg` is ignored (30_encoding.md R93). -/
def execMeasure (_arg : Arg) (s : State) : Answer := .next { s with core := s.core.startMeasure }

end Sys2Proof.Machine
end

