-- ==== Sys2Proof/Machine/Operands.lean ====
section
/-! DEFINITION. Operand assembly (30_encoding.md R97): `arg` to clamped value, decimal digits, leading-zero blanking,
segment patterns and the ten frame bytes; and the inverse `join`. -/

namespace Sys2Proof.Machine

/-- `clamp(v)` = min(v, 9999) (42_digits.md R160). -/
def clamp (v : Nat) : Nat := min v valMax

/-- d3, the thousands of a clamped value (42_digits.md R161). -/
def thousands (c : Nat) : Nat := c / 1000
/-- d2, the hundreds (42_digits.md R161). -/
def hundreds (c : Nat) : Nat := (c / 100) % 10
/-- d1, the tens (42_digits.md R161). -/
def tens (c : Nat) : Nat := (c / 10) % 10
/-- d0, the ones (42_digits.md R161). -/
def ones (c : Nat) : Nat := c % 10

/-- A digit's code, or BLANK when the position is suppressed (42_digits.md R162). -/
def blankedIf (p : Prop) [Decidable p] (d : Nat) : DigitCode := if p then blank else BitVec.ofNat 4 d

/-- `split(v)`, element 0 the thousands position (42_digits.md R163). -/
def split (v : Nat) : Vector DigitCode 4 :=
  let c := clamp v
  #v[blankedIf (thousands c = 0) (thousands c),
     blankedIf (thousands c = 0 ∧ hundreds c = 0) (hundreds c),
     blankedIf (thousands c = 0 ∧ hundreds c = 0 ∧ tens c = 0) (tens c),
     BitVec.ofNat 4 (ones c)]

/-- `seg(e)`: the table for 0 to 9, 0x00 for BLANK and for the codes `split` never produces (42_digits.md R166). -/
def seg (c : Config) (e : DigitCode) : Byte :=
  if h : e.toNat < 10 then c.seg[e.toNat] else segBlankPattern

/-- Whether pattern `p` lights segment `x`: "A bit equal to 1 lights its segment" (30_encoding.md R100). -/
def segmentLit (c : Config) (p : Byte) (x : Segment) : Bool := p.getLsbD (c.segments.bit x)

/-- `frame(B)`: the ten bytes of a frame (43_serialize.md R182). -/
def frame (c : Config) (B : Vector DigitCode 4) : Vector Byte 10 :=
  #v[c.cmdData, c.cmdAddr, seg c B[0], 0x00, seg c B[1], 0x00, seg c B[2], 0x00, seg c B[3], c.cmdDisp]

/-- w(e) of 42_digits.md R168: a digit stands for itself, a blank for zero. R168 gives no weight to 0xA to 0xE, which
`split` never produces: it is a free value (log 17). -/
def weight (e : DigitCode) : Nat := if e.toNat < 10 then e.toNat else if e = blank then 0 else Config.freeWeight e

/-- `join(B)` (42_digits.md R168). CORE does not compute it; it is given for the law of R169. -/
def join (B : Vector DigitCode 4) : Nat :=
  1000 * weight B[0] + 100 * weight B[1] + 10 * weight B[2] + weight B[3]

end Sys2Proof.Machine
end

