-- ==== Sys2Proof/Machine/Render.lean ====
section
/-! DEFINITION. The display serializer (43_serialize.md): RENDER at acceptance, the frame sequence, the bit shifter.
The engine is written for every configuration; the machine runs it at `hardware`. -/

namespace Sys2Proof.Machine

/-- A micro-op of the frame sequence (43_serialize.md R181). -/
inductive MicroOp where
  /-- STB0: strobe low and settle -/
  | stb0
  /-- STB1: strobe high and settle -/
  | stb1
  /-- BYTE(j): shift out `FB[j]` -/
  | byte (j : Fin 10)
  deriving DecidableEq, Repr

/-- The frame sequence `MS[0..15]` (43_serialize.md R181). -/
def frameSequence : Vector MicroOp 16 :=
  #v[.stb0, .byte 0, .stb1, .stb0, .byte 1, .byte 2, .byte 3, .byte 4, .byte 5, .byte 6, .byte 7, .byte 8,
     .stb1, .stb0, .byte 9, .stb1]

/-- `MS[q]`. -/
def microOp (q : BitVec 4) : MicroOp := frameSequence[q.toNat]'q.isLt

/-- `enter(op)` (43_serialize.md R185, R186). -/
def Regs.enter (c : Config) (op : MicroOp) (r : Regs) : Regs :=
  match op with
  | .stb0 => { r with stb := false }.startHold c.tStb
  | .stb1 => { r with stb := true }.startHold c.tStb
  | .byte j => { r with bitix := 0, sub := .setup, dio := r.fb[j].getLsbD 0 }.startHold c.tDsu

/-- `next_op()` (43_serialize.md R190). -/
def Regs.nextOp (c : Config) (r : Regs) : Regs :=
  if r.rseq = 15 then { r.setRdone with rbusy := false, rseq := 0 }
  else { r with rseq := r.rseq + 1 }.enter c (microOp (r.rseq + 1))

/-- `bit_step(j)` (43_serialize.md R188). -/
def Regs.bitStep (c : Config) (j : Fin 10) (r : Regs) : Regs :=
  match r.sub with
  | .setup => { r with dclk := true, sub := .high }.startHold c.tCkh
  | .high => { r with dclk := false, sub := .low }.startHold c.tCkl
  | .low =>
    if r.bitix = 7 then r.nextOp c
    else
      { r with bitix := r.bitix + 1, sub := .setup, dio := r.fb[j].getLsbD (r.bitix.toNat + 1) }.startHold c.tDsu

/-- `step_render` (43_serialize.md R183). -/
def Regs.stepRender (c : Config) (r : Regs) : Regs :=
  if r.hold ≠ 0 then { r with hold := r.hold - 1 }
  else
    match microOp r.rseq with
    | .stb0 => r.nextOp c
    | .stb1 => r.nextOp c
    | .byte j => r.bitStep c j

/-- `start_render` (40_command.md R123). `BITIX` and `SUB` stay, as R123 says and R44 does not (DEDUCED, log 19). -/
def Regs.startRender (c : Config) (v : Arg) (r : Regs) : Regs :=
  { r.clearRdone with
    val := v
    digit := split v.toNat
    fb := frame c (split v.toNat)
    rbusy := true
    rseq := 0 }.enter c (microOp 0)

/-- RENDER `arg`, accepted (40_command.md R123). -/
def execRender (arg : Arg) (s : State) : Answer := .next { s with core := s.core.startRender hardware arg }

/-- `BusShift(b)`, the bit-shift primitive as the levels it puts on the pins, tick by tick (43_serialize.md R187): for
each bit, least significant first, set-up with the clock low, clock high, clock low. `STB` is low throughout. -/
def busShift (c : Config) (b : Byte) : List Pins :=
  (List.range 8).flatMap fun i =>
    List.replicate c.tDsu { stb := false, dclk := false, dio := b.getLsbD i }
      ++ List.replicate c.tCkh { stb := false, dclk := true, dio := b.getLsbD i }
      ++ List.replicate c.tCkl { stb := false, dclk := false, dio := b.getLsbD i }

/-- The data levels a receiver samples: `DIO` at each 0 to 1 edge of `DCLK` (43_serialize.md R195). -/
def risingLevels : List Pins → List Bool
  | p :: q :: ps => (if !p.dclk && q.dclk then [q.dio] else []) ++ risingLevels (q :: ps)
  | _ => []

end Sys2Proof.Machine
end

