-- ==== Sys2Proof/Machine/Wire.lean ====
section
/-! DEFINITION. The display sink (20_memory.md R61, R62; 43_serialize.md R196): the receiver on the three pins and the
meaning of each wire byte. -/

namespace Sys2Proof.Machine

/-- The byte whose bit i is the i-th bit of the list (43_serialize.md R196). -/
def byteOfBits : List Bool → Byte
  | [] => 0
  | b :: bs => (byteOfBits bs <<< 1) ||| (BitVec.ofBool b).setWidth 8

/-- Strobe 1 to 0 opens a transaction with no bytes and no pending bits (43_serialize.md R196). -/
def Receiver.openOn (p q : Pins) (rx : Receiver) : Receiver :=
  if p.stb && !q.stb then { rx with trans := some [], bits := [] } else rx

/-- Take one bit into the open transaction; the eighth completes a byte (43_serialize.md R196). With no transaction
open nothing is taken: R196 has nowhere to put it, and no run from reset comes there (log 11). -/
def Receiver.take (bit : Bool) (rx : Receiver) : Receiver :=
  match rx.trans with
  | none => rx
  | some bs =>
    if rx.bits.length < 7 then { rx with bits := rx.bits ++ [bit] }
    else { rx with trans := some (bs ++ [byteOfBits (rx.bits ++ [bit])]), bits := [] }

/-- The byte that taking `bit` completes, with its position; none when it completes none. -/
def Receiver.completes (bit : Bool) (rx : Receiver) : Option (Slot × Byte) :=
  match rx.trans with
  | none => none
  | some bs =>
    if rx.bits.length < 7 then none else some (Slot.ofIndex bs.length, byteOfBits (rx.bits ++ [bit]))

/-- Clock 0 to 1 while the strobe is low: the receiver samples (43_serialize.md R196). -/
def sampled (p q : Pins) : Bool := !p.dclk && q.dclk && !q.stb

/-- Strobe 0 to 1 closes the transaction; pending bits are dropped (43_serialize.md R196). -/
def Receiver.closeOn (p q : Pins) (rx : Receiver) : Receiver :=
  if !p.stb && q.stb then
    match rx.trans with
    | none => { rx with bits := [] }
    | some bs => { trans := none, bits := [], closed := rx.closed ++ [bs] }
  else rx

/-- The receiver after the pins went from `p` to `q` (43_serialize.md R196). -/
def Receiver.observe (p q : Pins) (rx : Receiver) : Receiver :=
  let opened := rx.openOn p q
  (if sampled p q then opened.take q.dio else opened).closeOn p q

/-- The byte completed when the pins went from `p` to `q`. -/
def Receiver.received (p q : Pins) (rx : Receiver) : Option (Slot × Byte) :=
  if sampled p q then (rx.openOn p q).completes q.dio else none

/-- The strobe rises in mid-byte. Only reset does that (70_reset_and_hazards.md R254). -/
def Receiver.cut (p q : Pins) (rx : Receiver) : Bool :=
  !p.stb && q.stb && !(rx.openOn p q).bits.isEmpty

/-- The transaction the strobe's rise closes, when it ends with a whole byte: the commit points of 20_memory.md
R75 (a rise that reset makes is log 18). -/
def Receiver.committed (p q : Pins) (rx : Receiver) : Option (List Byte) :=
  if !p.stb && q.stb && rx.bits.isEmpty then rx.trans else none

/-- `Rx(trace)`: the closed transactions of a list of pin levels (43_serialize.md R196). -/
def rxFrom (rx : Receiver) : List Pins → Receiver
  | p :: q :: ps => rxFrom (rx.observe p q) (q :: ps)
  | _ => rx

/-- `Rx(trace)` from a receiver that has seen nothing. -/
def rxOf (trace : List Pins) : List (List Byte) :=
  (rxFrom { trans := none, bits := [], closed := [] } trace).closed

/-- Data bytes go to known addresses: the device is in auto-increment write mode and the open transaction began with
the address command (20_memory.md R61). -/
def Display.addressed (d : Display) : Bool :=
  d.autoInc && (d.rx.trans.bind List.head?) == some hardware.cmdAddr

/-- The column the next data byte goes to (20_memory.md R61); free when no address is in force (log 9). -/
def Display.column (n : Nat) (d : Display) : Nat := if d.addressed then d.addr else Config.freeColumn n

/-- The device takes a data byte: stored at the current address, which then advances (20_memory.md R61). Outside an
addressed transaction both addresses are free (DESIGN CHOICE, safe, log 9). -/
def Display.storeData (n : Nat) (b : Byte) (d : Display) : Display :=
  { d with
    ram := d.ram.writeByte (d.column n) b
    addr := if d.addressed then d.addr + 1 else Config.freeAddr n }

/-- Nothing is known of the device any more: its registers are free, no column is known (DESIGN CHOICE, safe, log 10;
U8: "any value on the device side"). -/
def Display.lose (n : Nat) (d : Display) : Display :=
  { d with
    autoInc := Config.freeAutoInc n
    addr := Config.freeAddr n
    on := Config.freeOn n
    level := Config.freeLevel n
    ram := []
    latched := [] }

/-- The strobe's rise latches all shifted data (20_memory.md R75 (b)). -/
def State.latch (s : State) : State := { s with disp := { s.disp with latched := s.disp.ram } }

/-- Whether a row acts at the strobe's rise that ends its transaction and not when its eighth bit is taken. The commands
do (20_memory.md R75 (a), (c)). The address command does not, since the data bytes behind it in its own transaction are
stored as they arrive (20_memory.md R61, R69 (b); DEDUCED, log 5). A word of the command port never waits. -/
def waitsForStrobe : Instr → Bool
  | .cmdData | .cmdDisp => true
  | .cmdAddr => false
  | .dummy | .seg0 | .seg1 | .seg2 | .seg3 | .seg4 | .seg5 | .seg6 | .seg7 | .seg8 | .seg9 | .segBlank => false
  | .nop _ | .measure _ | .render _ | .rsvd3 _ => false

/-- The data byte `b` arrives at the display sink (20_memory.md R61). -/
def State.storeData (b : Byte) (s : State) : State := { s with disp := s.disp.storeData s.tick b }

/-- CMD_DATA is committed: "auto-increment write mode" (30_encoding.md R99, 20_memory.md R61). -/
def execCmdData (s : State) : Answer := .next { s with disp := { s.disp with autoInc := true } }

/-- CMD_ADDR arrives: the start address A, carried in bits 3:0 (30_encoding.md R99, 20_memory.md R61). -/
def execCmdAddr (s : State) : Answer :=
  .next { s with disp := { s.disp with addr := (hardware.cmdAddr.extractLsb' 0 4).toNat } }

/-- CMD_DISP is committed: bit 3 display on, bits 2:0 brightness (30_encoding.md R99). -/
def execCmdDisp (s : State) : Answer :=
  .next { s with disp :=
    { s.disp with on := hardware.cmdDisp.getLsbD 3, level := hardware.cmdDisp.extractLsb' 0 3 } }

/-- DUMMY arrives: the zero byte for the unused column (20_memory.md R62). -/
def execDummy (s : State) : Answer := .next (s.storeData 0x00)

/-- SEG0 arrives: the pattern of digit 0 (42_digits.md R165; stored by 20_memory.md R61). -/
def execSeg0 (s : State) : Answer := .next (s.storeData (seg hardware 0))
/-- SEG1 arrives. -/
def execSeg1 (s : State) : Answer := .next (s.storeData (seg hardware 1))
/-- SEG2 arrives. -/
def execSeg2 (s : State) : Answer := .next (s.storeData (seg hardware 2))
/-- SEG3 arrives. -/
def execSeg3 (s : State) : Answer := .next (s.storeData (seg hardware 3))
/-- SEG4 arrives. -/
def execSeg4 (s : State) : Answer := .next (s.storeData (seg hardware 4))
/-- SEG5 arrives. -/
def execSeg5 (s : State) : Answer := .next (s.storeData (seg hardware 5))
/-- SEG6 arrives. -/
def execSeg6 (s : State) : Answer := .next (s.storeData (seg hardware 6))
/-- SEG7 arrives. -/
def execSeg7 (s : State) : Answer := .next (s.storeData (seg hardware 7))
/-- SEG8 arrives. -/
def execSeg8 (s : State) : Answer := .next (s.storeData (seg hardware 8))
/-- SEG9 arrives. -/
def execSeg9 (s : State) : Answer := .next (s.storeData (seg hardware 9))
/-- SEG_BLANK arrives: the pattern of BLANK (42_digits.md R166). -/
def execSegBlank (s : State) : Answer := .next (s.storeData (seg hardware blank))

/-- A byte of none of the table's rows arrives. As a data byte it is stored like any other (20_memory.md R61); a command
byte waits for the strobe (20_memory.md R75). -/
def unlistedByte (slot : Slot) (b : Byte) (s : State) : State :=
  if slot = .first then s else s.storeData b

end Sys2Proof.Machine
end

