-- ==== Sys2Proof/Machine/Dispatch.lean ====
section
/-! DEFINITION. One arm per instruction: command words at acceptance, wire bytes at arrival. -/

namespace Sys2Proof.Machine

def exec (i : Instr) (s : State) : Host.Outcome State Fault Refusal :=
  match i with
  -- command words, run by CORE when accepted
  | .nop arg => Sys2Proof.Machine.execNop arg s
  | .measure arg => Sys2Proof.Machine.execMeasure arg s
  | .render arg => Sys2Proof.Machine.execRender arg s
  | .rsvd3 arg => Sys2Proof.Machine.execRsvd3 arg s
  -- wire bytes, run by the display sink when complete
  | .cmdData => Sys2Proof.Machine.execCmdData s
  | .cmdAddr => Sys2Proof.Machine.execCmdAddr s
  | .cmdDisp => Sys2Proof.Machine.execCmdDisp s
  | .dummy => Sys2Proof.Machine.execDummy s
  | .seg0 => Sys2Proof.Machine.execSeg0 s
  | .seg1 => Sys2Proof.Machine.execSeg1 s
  | .seg2 => Sys2Proof.Machine.execSeg2 s
  | .seg3 => Sys2Proof.Machine.execSeg3 s
  | .seg4 => Sys2Proof.Machine.execSeg4 s
  | .seg5 => Sys2Proof.Machine.execSeg5 s
  | .seg6 => Sys2Proof.Machine.execSeg6 s
  | .seg7 => Sys2Proof.Machine.execSeg7 s
  | .seg8 => Sys2Proof.Machine.execSeg8 s
  | .seg9 => Sys2Proof.Machine.execSeg9 s
  | .segBlank => Sys2Proof.Machine.execSegBlank s

end Sys2Proof.Machine
end

