-- ==== Sys2Proof/Machine/Tick.lean ====
section
/-! DEFINITION. What one tick does: the branch it takes (40_command.md R120), that branch, and the display sink's look
at the pins. `Regs.step` is the rule's pseudocode on CORE's fields alone; `runTurn` is the same through `exec`. -/

namespace Sys2Proof.Machine

/-- The branch of 40_command.md R120 a tick takes. -/
inductive Turn where
  /-- `rst` = 1 -/
  | reset
  /-- the echo-timing engine is busy -/
  | measure
  /-- the display serializer is busy -/
  | render
  /-- a command is accepted -/
  | accept (i : Instr)
  /-- idle, nothing presented -/
  | idle
  deriving DecidableEq, Repr

/-- Precedence: reset, the busy engine, acceptance (40_command.md R120, R121, R127). -/
def turn (r : Regs) (i : Inputs) : Turn :=
  if i.rst then .reset
  else if r.mph ≠ .idle then .measure
  else if r.rbusy then .render
  else if i.cmdValid then .accept (decodeCW i.cmdWord)
  else .idle

/-- Run the branch. -/
def runTurn (i : Inputs) (s : State) : Turn → Answer
  | .reset => .next s.takeReset
  | .measure => .next { s with core := s.core.stepMeasure i.echo }
  | .render => .next { s with core := s.core.stepRender hardware }
  | .accept c => exec c s
  | .idle => .next s

/-- A byte has arrived: the sink's decoder reads it by its position and its row is run (30_encoding.md R103), unless it
waits for the strobe. -/
def arrive (slot : Slot) (b : Byte) (s : State) : Answer :=
  match decode slot (.bus8 b) with
  | .ok i => if waitsForStrobe i then .next s else exec i s
  | .error _ => .next (unlistedByte slot b s)

/-- The strobe's rise has closed the transaction `bs`: what was shifted behind its first byte is latched, and a first
byte that has waited is run (20_memory.md R75). The effect of an unlisted command byte is in no rule (log 10). -/
def commit (bs : List Byte) (s : State) : Answer :=
  match bs with
  | [] => .next s
  | b :: data =>
    let kept := if data.isEmpty then s else s.latch
    match decode .first (.bus8 b) with
    | .ok i => if waitsForStrobe i then exec i kept else .next kept
    | .error _ => .next { s with disp := s.disp.lose s.tick }

/-- The display sink after the pins went from `p` to `q`, before any byte is run: the receiver moves on, and
the device's state is lost when the strobe rises in mid-byte (U8, log 10). -/
def State.watch (p q : Pins) (s : State) : State :=
  let seen := { s.disp with rx := s.disp.rx.observe p q }
  { s with disp := if s.disp.rx.cut p q then seen.lose s.tick else seen }

/-- The display sink's look at the pins at the end of a tick that began with pins `p`: a byte completed in this tick
arrives, a transaction closed in this tick is committed. No tick does both: bits are taken with the strobe low. -/
def deliver (p : Pins) (s : State) : Answer :=
  match s.disp.rx.received p s.core.pins with
  | some (slot, b) => arrive slot b (s.watch p s.core.pins)
  | none =>
    match s.disp.rx.committed p s.core.pins with
    | some bs => commit bs (s.watch p s.core.pins)
    | none => .next (s.watch p s.core.pins)

/-- `step(s, in)` of 40_command.md R120, on the fields of CORE. -/
def Regs.step (r : Regs) (i : Inputs) : Regs :=
  if i.rst then Regs.reset
  else if r.mph ≠ .idle then r.stepMeasure i.echo
  else if r.rbusy then r.stepRender hardware
  else if i.cmdValid then
    if i.cmdWord.extractLsb' 16 2 = 0b01#2 then r.startMeasure
    else if i.cmdWord.extractLsb' 16 2 = 0b10#2 then r.startRender hardware (i.cmdWord.extractLsb' 0 16)
    else r
  else r

/-- s_k of the run of CORE from `r` under the input sequence `ins` (00_scope.md R8). -/
def Regs.after (r : Regs) (ins : Nat → Inputs) : Nat → Regs
  | 0 => r
  | k + 1 => (r.after ins k).step (ins k)

end Sys2Proof.Machine
end

