-- ==== Sys2Proof/Machine/Fetch.lean ====
section
/-! DEFINITION. Putting one word where the next step takes it: a command word on the command port, a byte about to be
completed on the display bus, or a command byte about to be committed there (log 12). -/

namespace Sys2Proof.Machine

/-- The level of `echo` in the next listed input record; low when none is listed. -/
def State.nextEcho (s : State) : Bool :=
  match s.inputs with
  | [] => false
  | i :: _ => i.echo

/-- `s` idle, with command word `w` presented at the next step. -/
def State.placeCommand (w : CmdWord) (s : State) : State :=
  { s with
    core := { s.core with mph := .idle, rbusy := false }
    inputs := { rst := false, cmdValid := true, cmdWord := w, echo := s.nextEcho } :: s.inputs.tail }

/-- The input record that presents nothing and keeps the level of `echo`. -/
def State.quietInput (s : State) : Inputs where
  rst := false
  cmdValid := false
  cmdWord := 0
  echo := s.nextEcho

/-- `s` with command byte `b` received and the serializer at the end of BYTE(0), so that the next step raises the strobe
and commits it. -/
def State.placeWaiting (b : Byte) (s : State) : State :=
  { s with
    core := { s.core with
      mph := .idle
      rbusy := true
      rseq := 1
      bitix := 7
      sub := .low
      hold := 0
      stb := false
      dclk := false
      dio := b.getLsbD 7 }
    disp := { s.disp with rx := { s.disp.rx with trans := some [b], bits := [] } }
    inputs := s.quietInput :: s.inputs.tail }

/-- A micro-op that sends a byte standing in `slot`: BYTE(0) for a command byte, BYTE(2) for a data byte. -/
def byteSeq (slot : Slot) : BitVec 4 := if slot = .first then 1 else 5

/-- `s` with the serializer at the last set-up of byte `b` and the receiver holding its first seven bits, so that the
next step raises the clock and completes the byte in `slot`: first of its window, or first data byte of an addressed
auto-increment transaction. -/
def State.placeByte (slot : Slot) (b : Byte) (s : State) : State :=
  { s with
    core := { s.core with
      mph := .idle
      rbusy := true
      rseq := byteSeq slot
      bitix := 7
      sub := .setup
      hold := 0
      stb := false
      dclk := false
      dio := b.getLsbD 7 }
    disp := { s.disp with
      rx := { s.disp.rx with
        trans := some (if slot = .first then [] else [hardware.cmdAddr])
        bits := (List.range 7).map b.getLsbD }
      autoInc := if slot = .first then s.disp.autoInc else true
      addr := if slot = .first then s.disp.addr else (hardware.cmdAddr.extractLsb' 0 4).toNat }
    inputs := s.quietInput :: s.inputs.tail }

/-- `s` with byte `b`, read alone, placed so that the next step runs it. -/
def State.placeAlone (b : Byte) (s : State) : State :=
  match decode (slotAlone b) (.bus8 b) with
  | .ok i => if waitsForStrobe i then s.placeWaiting b else s.placeByte (slotAlone b) b
  | .error _ => s.placeByte (slotAlone b) b

end Sys2Proof.Machine
end

