-- ==== Sys2Proof/Machine/Step.lean ====
section
/-! DEFINITION. The step, one tick (00_scope.md R8): sample the inputs, take the branch of R120, let the display sink
look at the pins. -/

namespace Sys2Proof.Machine

/-- One tick. -/
def step (s : State) : Host.Outcome State Fault Refusal :=
  andThen (runTurn s.sample s.consume (turn s.core s.sample)) (deliver s.core.pins)

/-- `s` with the table word `w` of `nbits` bits placed where the next step takes its instruction (log 12): a byte for
the display sink up to 8 bits, else a command word on the port. -/
def State.withFetchWord (s : State) (nbits w : Nat) : State :=
  if nbits ≤ 8 then s.placeAlone (BitVec.ofNat 8 w)
  else s.placeCommand (BitVec.ofNat 18 w)

end Sys2Proof.Machine
end

