-- ==== Sys2Proof/Machine/Blink.lean ====
section
/-! DEFINITION. The blink-delay mapping (44_blink.md) and the output ports (10_state.md R45). -/

namespace Sys2Proof.Machine

/-- `blink_delay(x)`, milliseconds for centimetres (44_blink.md R210). -/
def blinkDelay (x : Nat) : Nat :=
  if x ≤ 2 then 50
  else if x ≤ 4 then 100
  else if x ≤ 8 then 200
  else if x ≤ 16 then 400
  else if x ≤ 32 then 700
  else 1000

/-- The output ports (10_state.md R45). -/
structure Outputs where
  trig : Bool
  stb : Bool
  dclk : Bool
  dio : Bool
  busy : Bool
  mdone : Bool
  rdone : Bool
  dist : BitVec 16
  dur : BitVec 15
  blinkMs : BitVec 10
  deriving DecidableEq, Repr

/-- out(s): every output is a function of the state alone (10_state.md R45; `blink_ms` 44_blink.md R212). -/
def Regs.outputs (r : Regs) : Outputs where
  trig := r.trig
  stb := r.stb
  dclk := r.dclk
  dio := r.dio
  busy := r.busy
  mdone := r.mdone
  rdone := r.rdone
  dist := r.dist
  dur := r.dur
  blinkMs := BitVec.ofNat 10 (blinkDelay r.dist.toNat)

end Sys2Proof.Machine
end

