-- ==== Sys2Proof/Machine/Script.lean ====
section
/-! DEFINITION. Host scripts (30_encoding.md R104, R105): the lines a host runs, what each presents in a tick given the
outputs the host sees in that tick, and a machine run under a script and an echo waveform. -/

namespace Sys2Proof.Machine

/-- A line of a host script (30_encoding.md R104) or a pseudo-instruction (R105). -/
inductive HostLine where
  | nop
  | measure
  | render (n : Nat)
  | renderDist
  | word (w : Nat)
  | idle (n : Nat)
  | reset (n : Nat)
  | waitM
  | waitR
  | wait
  | cycle
  | blinkWait
  deriving DecidableEq, Repr

/-- The ranges of R104: `RENDER #n` 0 to 65535, `.word` 18 bits, `RESET n` n ≥ 1. -/
def HostLine.wellFormed : HostLine → Bool
  | .render n => n < 2 ^ 16
  | .word w => w < 2 ^ 18
  | .reset n => 1 ≤ n
  | .nop | .measure | .renderDist | .idle _ | .waitM | .waitR | .wait | .cycle | .blinkWait => true

/-- What the host drives in one tick. -/
structure HostDrive where
  rst : Bool
  cmdValid : Bool
  cmdWord : CmdWord
  deriving DecidableEq, Repr

/-- Present command word `w` for one tick. -/
def HostDrive.present (w : Nat) : HostDrive where
  rst := false
  cmdValid := true
  cmdWord := BitVec.ofNat 18 w

/-- Present nothing: `cmd_valid` = 0 (30_encoding.md R96). -/
def HostDrive.quiet : HostDrive where
  rst := false
  cmdValid := false
  cmdWord := 0

/-- Hold `rst` = 1. -/
def HostDrive.resetting : HostDrive where
  rst := true
  cmdValid := false
  cmdWord := 0

/-- One tick of the host: what it drives while it sees the outputs `o`, and the lines left. A wait line that finds its
flag set takes no tick (DEDUCED from program P3 of 95_test_vectors.md, log 16); past the last line the host presents
nothing. A MEASURE line is presented whatever BUSY is: R104 says it must be accepted and not what a script does when it
cannot be; here CORE drops the word and the script goes on (DESIGN CHOICE, log 16). -/
def hostTick (o : Outputs) : List HostLine → HostDrive × List HostLine
  | [] => (.quiet, [])
  | .nop :: ls => (.present 0x00000, ls)
  | .measure :: ls => (.present 0x10000, ls)
  | .render n :: ls => (.present (0x20000 + n), ls)
  | .renderDist :: ls => (.present (0x20000 + o.dist.toNat), ls)
  | .word w :: ls => (.present w, ls)
  | .idle 0 :: ls => hostTick o ls
  | .idle (n + 1) :: ls => (.quiet, .idle n :: ls)
  | .reset 0 :: ls => hostTick o ls
  | .reset (n + 1) :: ls => (.resetting, .reset n :: ls)
  | .waitM :: ls => if o.mdone then hostTick o ls else (.quiet, .waitM :: ls)
  | .waitR :: ls => if o.rdone then hostTick o ls else (.quiet, .waitR :: ls)
  | .wait :: ls => if o.busy then (.quiet, .wait :: ls) else hostTick o ls
  | .cycle :: ls => (.present 0x10000, .waitM :: .renderDist :: .waitR :: ls)
  | .blinkWait :: ls => (.quiet, .idle (1000 * o.blinkMs.toNat - 1) :: ls)

/-- The level of `echo` at tick `k` of a waveform given as (tick, level) changes in rising order, low before the first
(30_encoding.md R104, last sentence). -/
def echoAt (wave : List (Nat × Bool)) (k : Nat) : Bool :=
  (wave.filter (fun c => c.1 ≤ k)).getLast?.elim false Prod.snd

/-- `n` ticks of the machine under a script, from tick `k` of the waveform. -/
def runScript (wave : List (Nat × Bool)) : Nat → Nat → List HostLine → State → Answer
  | 0, _, _, s => .next s
  | n + 1, k, ls, s =>
    let h := hostTick s.core.outputs ls
    let i : Inputs :=
      { rst := h.1.rst, cmdValid := h.1.cmdValid, cmdWord := h.1.cmdWord, echo := echoAt wave k }
    andThen (step { s with inputs := [i] }) (runScript wave n (k + 1) h.2)

end Sys2Proof.Machine
end

