-- ==== Sys2Proof/Machine/Schedule.lean ====
section
/-! DEFINITION. The schedule of a frame (43_serialize.md R193) at this hardware's hold times: where a frame stands, as
one number of ticks, and what has been sent so far. -/

namespace Sys2Proof.Machine

/-- `E[q]`, the tick at which micro-op `q` is entered, counted from the accepting step (43_serialize.md R193). -/
def entryTick : Vector Nat 16 :=
  #v[0, 10, 106, 116, 126, 222, 318, 414, 510, 606, 702, 798, 894, 904, 914, 1010]

/-- Ticks of the current micro-op gone by, from its sub-phase, bit and hold (43_serialize.md R184, R187). -/
def Regs.opTick (r : Regs) : Nat :=
  match microOp r.rseq with
  | .stb0 => 9 - r.hold.toNat
  | .stb1 => 9 - r.hold.toNat
  | .byte _ =>
    12 * r.bitix.toNat +
      match r.sub with
      | .setup => 1 - r.hold.toNat
      | .high => 6 - r.hold.toNat
      | .low => 11 - r.hold.toNat

/-- "Together (`RSEQ`, `BITIX`, `SUB`, `HOLD`) name one tick of the 1020-tick frame" (10_state.md R22): that tick, 0 to
1019. -/
def Regs.frameTick (r : Regs) : Nat := entryTick[r.rseq.toNat]'r.rseq.isLt + r.opTick

/-- The first frame byte of the transaction that sends `FB[j]` (30_encoding.md R98). -/
def transactionStart (j : Nat) : Nat := if j = 0 then 0 else if j = 9 then 9 else 1

/-- The slot in which the receiver reads frame byte `j` (30_encoding.md R98): by its place in its transaction. -/
def frameSlot (j : Nat) : Slot := Slot.ofIndex (j - transactionStart j)

/-- The current byte has had its last rising clock edge. -/
def Regs.byteSent (r : Regs) : Bool := r.bitix = 7 && r.sub ≠ .setup

/-- The bytes of the open transaction sent whole; none when the strobe is high (43_serialize.md R181, R196). -/
def Regs.sentBytes (r : Regs) : Option (List Byte) :=
  if r.rbusy then
    match microOp r.rseq with
    | .stb0 => some []
    | .stb1 => none
    | .byte j =>
      some (((r.fb.toList.take j).drop (transactionStart j)) ++ (if r.byteSent then [r.fb[j]] else []))
  else none

/-- The bits of the current byte that have had their rising clock edge, when the byte is not sent whole
(43_serialize.md R187, R196). -/
def Regs.sentBits (r : Regs) : List Bool :=
  if r.rbusy then
    match microOp r.rseq with
    | .stb0 => []
    | .stb1 => []
    | .byte j =>
      if r.byteSent then []
      else (List.range (r.bitix.toNat + if r.sub = .setup then 0 else 1)).map r.fb[j].getLsbD
  else []

end Sys2Proof.Machine
end

