-- ==== Sys2Proof/Safety.lean ====
section
/-! DEFINITION. What a safe run is: every step answers a next state, and every state meets the invariants of
10_state.md R48, strengthened so that a step keeps them. -/

namespace Sys2Proof.Machine

/-- The step from `s` goes on: it neither faults nor is refused (60_exceptions.md R220). -/
def State.Goes (s : State) : Prop := ∃ t, step s = .next t

/-- The level `STB` has during a micro-op (43_serialize.md R181, R187). -/
def MicroOp.strobe : MicroOp → Bool
  | .stb0 => false
  | .stb1 => true
  | .byte _ => false

/-- Whether a micro-op sends a byte. -/
def MicroOp.sends : MicroOp → Bool
  | .stb0 => false
  | .stb1 => false
  | .byte _ => true

/-- The largest `HOLD` in a micro-op and sub-phase (43_serialize.md R185, R186, R188). -/
def MicroOp.longestHold (op : MicroOp) (sub : SubPhase) : Nat :=
  match op with
  | .stb0 => 9
  | .stb1 => 9
  | .byte _ =>
    match sub with
    | .setup => 1
    | .high => 4
    | .low => 4

/-- `DIGIT` and `FB` are those of `VAL` (10_state.md R48 (i)). -/
def Regs.FrameLoaded (r : Regs) : Prop := r.digit = split r.val.toNat ∧ r.fb = frame hardware r.digit

/-- No RENDER has been accepted since reset. -/
def Regs.NoFrameYet (r : Regs) : Prop :=
  r.val = 0 ∧ r.digit = Regs.reset.digit ∧ r.fb = Regs.reset.fb ∧ r.rbusy = false ∧ r.rdone = false

/-- The invariants of the echo-timing engine's fields: clauses (b) to (f) and the first half of (j) of 10_state.md R48,
and what makes them inductive. -/
structure Regs.TimerInv (r : Regs) : Prop where
  /-- (b) -/
  trigIff : r.trig = true ↔ r.mph = .trigger
  /-- (c) -/
  tcntZero : r.mph ≠ .trigger → r.tcnt = 0
  /-- (d) -/
  distEq : r.dist.toNat = r.dur.toNat / 58
  durLe : r.dur.toNat ≤ 30000
  distLe : r.dist.toNat ≤ 517
  /-- (e) -/
  wcntLe : r.wcnt.toNat ≤ 1000
  dcntLe : r.dcnt.toNat ≤ 30000
  /-- (f) -/
  riseCounts : r.mph = .waitRise → r.dcnt = 0 ∧ r.wcnt.toNat ≤ 999
  fallCount : r.mph = .waitFall → r.dcnt.toNat ≤ 29999
  /-- (j) -/
  mdoneIdle : r.mdone = true → r.mph = .idle
  /-- the legal range of `TCNT` (10_state.md R24) -/
  tcntLe : r.tcnt.toNat ≤ 9
  /-- both counters are still clear during the trigger pulse -/
  triggerCounts : r.mph = .trigger → r.wcnt = 0 ∧ r.dcnt = 0

/-- The invariants of the serializer's and encoder's fields: clauses (g) to (i) and the second half of (j) of
10_state.md R48, and what makes them inductive. -/
structure Regs.SerializerInv (r : Regs) : Prop where
  /-- (g) -/
  idlePins : r.rbusy = false → r.stb = true ∧ r.dclk = false ∧ r.hold = 0 ∧ r.rseq = 0
  /-- (h) -/
  clockHigh : r.dclk = true → r.stb = false ∧ r.sub = .high
  /-- (i) -/
  frameRegs : r.FrameLoaded ∨ r.NoFrameYet
  /-- (j) -/
  rdoneIdle : r.rdone = true → r.rbusy = false
  /-- the strobe has the level of the micro-op in progress -/
  strobeLevel : r.rbusy = true → r.stb = (microOp r.rseq).strobe
  /-- the clock is high exactly in the HIGH part of a bit -/
  clockIff : r.rbusy = true → (r.dclk = true ↔ (microOp r.rseq).sends = true ∧ r.sub = .high)
  /-- `HOLD` never exceeds the hold in progress -/
  holdLe : r.rbusy = true → r.hold.toNat ≤ (microOp r.rseq).longestHold r.sub
  /-- in a byte the data line has the current bit -/
  dataLevel : r.rbusy = true → ∀ j, microOp r.rseq = .byte j → r.dio = r.fb[j].getLsbD r.bitix.toNat

/-- The invariants of CORE: clauses (a) to (j) of 10_state.md R48, and what makes them inductive. -/
structure Regs.Inv (r : Regs) : Prop where
  /-- (a) -/
  oneEngine : r.mph ≠ .idle → r.rbusy = false
  timer : r.TimerInv
  serializer : r.SerializerInv

/-- The invariants of the machine: those of CORE, the canonical form of the column stores, and that the receiver holds
just what the serializer has sent of the open transaction (43_serialize.md R196). -/
structure State.Inv (s : State) : Prop where
  core : s.core.Inv
  stores : s.disp.wf
  trans : s.disp.rx.trans = s.core.sentBytes
  bits : s.disp.rx.bits = s.core.sentBits

/-! ### Terms the statements use -/

/-- `n` steps of the machine. -/
def State.runFor (n : Nat) (s : State) : Answer := Host.Core.run Sys2Proof.core n s

/-- A MEASURE is accepted in the step from `r` with inputs `i` (40_command.md R121, 30_encoding.md R92). -/
def Regs.AcceptsMeasure (r : Regs) (i : Inputs) : Prop :=
  r.busy = false ∧ i.rst = false ∧ i.cmdValid = true ∧ i.cmdWord.extractLsb' 16 2 = 0b01#2

/-- A RENDER of `v` is accepted in the step from `r` with inputs `i` (40_command.md R121, 30_encoding.md R92). -/
def Regs.AcceptsRender (r : Regs) (i : Inputs) (v : Arg) : Prop :=
  r.busy = false ∧ i.rst = false ∧ i.cmdValid = true ∧ i.cmdWord = 0b10#2 ++ v

/-- `rst` stays 0 at the steps 0 to `n`. -/
def NoReset (ins : Nat → Inputs) (n : Nat) : Prop := ∀ k, k ≤ n → (ins k).rst = false

end Sys2Proof.Machine
end

