-- ==== Sys2Proof/Certificates/Slice0/Obligations.lean ====
section
/-! DEFINITION. The statements for the provers. Indices are those of 41_measure.md and 43_serialize.md with k = 0: the
command is accepted at step 0, and `r.after ins n` is s_n of the run from s_0 = `r` under the inputs `ins`. -/

open Sys2Proof Sys2Proof.Machine

/-! ### Encodings -/

/-- Every instruction, at every operand, decodes from its own word in the slot it may stand in (30_encoding.md R90 to
R94, R99, R103). -/
def Obligations.DecodeOfEncode : Prop :=
  ∀ (slot : Slot) (i : Instr), i.wellFormed slot = true → decode slot (encode i) = .ok i

/-- Whatever decodes, decodes to an instruction that may stand there and whose word it is: no other word and no other
place gives that instruction (30_encoding.md R94, R103). -/
def Obligations.EncodeOfDecode : Prop :=
  ∀ (slot : Slot) (code : Code) (i : Instr),
    decode slot code = .ok i → encode i = code ∧ i.wellFormed slot = true

/-- 30_encoding.md R94: match and mask of the four command words, which cover all words. -/
def Obligations.CommandWordMatchAndMask : Prop :=
  ∀ w : CmdWord,
    (w &&& 0x30000 = 0x00000 → decodeCW w = .nop (w.extractLsb' 0 16)) ∧
    (w &&& 0x30000 = 0x10000 → decodeCW w = .measure (w.extractLsb' 0 16)) ∧
    (w &&& 0x30000 = 0x20000 → decodeCW w = .render (w.extractLsb' 0 16)) ∧
    (w &&& 0x30000 = 0x30000 → decodeCW w = .rsvd3 (w.extractLsb' 0 16)) ∧
    (w &&& 0x30000 = 0x00000 ∨ w &&& 0x30000 = 0x10000 ∨ w &&& 0x30000 = 0x20000 ∨ w &&& 0x30000 = 0x30000) ∧
    decode .port (.cw w) = .ok (decodeCW w)

/-- Words written out from the spec's encodings (30_encoding.md R90, R92, R99; 42_digits.md R165; 95_test_vectors.md
2.1). -/
def Obligations.WrittenWordsDecode : Prop :=
  decode .port (.cw 0b00_0000000000000000#18) = .ok (.nop 0) ∧
  decode .port (.cw 0b01_1111111111111111#18) = .ok (.measure 0xFFFF) ∧
  decode .port (.cw 0b10_0000000000101010#18) = .ok (.render 42) ∧
  decode .port (.cw 0b11_0000000000000000#18) = .ok (.rsvd3 0) ∧
  decode .first (.bus8 0b0100_0000#8) = .ok .cmdData ∧
  decode .first (.bus8 0b1100_0000#8) = .ok .cmdAddr ∧
  decode .first (.bus8 0b1000_1111#8) = .ok .cmdDisp ∧
  decode .dummy (.bus8 0b0000_0000#8) = .ok .dummy ∧
  decode .pattern (.bus8 0b0110_0110#8) = .ok .seg4 ∧
  decode .pattern (.bus8 0b0000_0000#8) = .ok .segBlank

/-- Every byte of every frame this hardware sends is a row of the table in its slot: the display sink recognises all
it gets (43_serialize.md R181, R182; 30_encoding.md R98, R103). -/
def Obligations.FrameBytesAreTableRows : Prop :=
  ∀ (v : Nat) (j : Fin 10),
    ∃ i : Instr, i.wellFormed (frameSlot j) = true ∧ encode i = .bus8 (frame hardware (split v))[j] ∧
      decode (frameSlot j) (.bus8 (frame hardware (split v))[j]) = .ok i

/-! ### The command port -/

/-- 40_command.md R124: NOP at every `arg` changes nothing. -/
def Obligations.NopChangesNothing : Prop :=
  ∀ (a : Arg) (s : State), decodeCW (0b00#2 ++ a) = .nop a ∧ exec (.nop a) s = .next s

/-- 40_command.md R125: RSVD3 at every `arg` does what NOP does. -/
def Obligations.ReservedCodeActsAsNop : Prop :=
  ∀ (a : Arg) (s : State),
    decodeCW (0b11#2 ++ a) = .rsvd3 a ∧ exec (.rsvd3 a) s = .next s ∧ exec (.rsvd3 a) s = exec (.nop a) s

/-- 40_command.md R122: MEASURE at every `arg`, at acceptance; BUSY becomes 1. -/
def Obligations.MeasureStartsTheTrigger : Prop :=
  ∀ (a : Arg) (s : State),
    decodeCW (0b01#2 ++ a) = .measure a ∧
    exec (.measure a) s = .next { s with core := { s.core with
      mph := .trigger, trig := true, tcnt := 0, wcnt := 0, dcnt := 0, mdone := false } } ∧
    s.core.startMeasure.busy = true

/-- 40_command.md R123: RENDER at every operand, at acceptance; BUSY becomes 1. -/
def Obligations.RenderLoadsTheFrame : Prop :=
  ∀ (v : Arg) (s : State),
    decodeCW (0b10#2 ++ v) = .render v ∧
    exec (.render v) s = .next { s with core := { s.core with
      val := v, digit := split v.toNat, fb := frame hardware (split v.toNat), rbusy := true, rdone := false,
      rseq := 0, stb := false, hold := 9 } } ∧
    (s.core.startRender hardware v).busy = true

/-- The frame of the four command words: what each leaves unchanged at acceptance, column by column of the display
(40_command.md R122 to R125). -/
def Obligations.CommandWordFrame : Prop :=
  ∀ (a : Arg) (s t : State),
    ((exec (.nop a) s = .next t ∨ exec (.rsvd3 a) s = .next t) → t.core = s.core) ∧
    (exec (.measure a) s = .next t →
      t.core.dur = s.core.dur ∧ t.core.dist = s.core.dist ∧ t.core.val = s.core.val ∧ t.core.digit = s.core.digit ∧
      t.core.fb = s.core.fb ∧ t.core.rbusy = s.core.rbusy ∧ t.core.rseq = s.core.rseq ∧
      t.core.bitix = s.core.bitix ∧ t.core.sub = s.core.sub ∧ t.core.hold = s.core.hold ∧
      t.core.stb = s.core.stb ∧ t.core.dclk = s.core.dclk ∧ t.core.dio = s.core.dio ∧
      t.core.rdone = s.core.rdone) ∧
    (exec (.render a) s = .next t →
      t.core.mph = s.core.mph ∧ t.core.tcnt = s.core.tcnt ∧ t.core.wcnt = s.core.wcnt ∧ t.core.dcnt = s.core.dcnt ∧
      t.core.dur = s.core.dur ∧ t.core.dist = s.core.dist ∧ t.core.mdone = s.core.mdone ∧
      t.core.trig = s.core.trig ∧ t.core.bitix = s.core.bitix ∧ t.core.sub = s.core.sub ∧
      t.core.dclk = s.core.dclk ∧ t.core.dio = s.core.dio) ∧
    ((exec (.nop a) s = .next t ∨ exec (.rsvd3 a) s = .next t ∨ exec (.measure a) s = .next t ∨
        exec (.render a) s = .next t) →
      t.inputs = s.inputs ∧ t.tick = s.tick ∧ t.disp.rx = s.disp.rx ∧ t.disp.autoInc = s.disp.autoInc ∧
      t.disp.addr = s.disp.addr ∧ t.disp.on = s.disp.on ∧ t.disp.level = s.disp.level ∧
      ∀ x : Nat, t.disp.ram.readByte x = s.disp.ram.readByte x ∧
        t.disp.latched.readByte x = s.disp.latched.readByte x)

/-- A step of an idle CORE that is offered a command runs the decoded command: `exec` of it after the input record is
used up, then the display sink looks at the pins. -/
def Obligations.StepRunsTheAcceptedCommand : Prop :=
  ∀ (s : State) (i : Instr),
    s.core.busy = false → s.sample.rst = false → s.sample.cmdValid = true →
    decode .port (.cw s.sample.cmdWord) = .ok i →
    ∃ t : State, exec i s.consume = .next t ∧ step s = .next (t.watch s.core.pins t.core.pins)

/-- A step in which a byte arrives at the display sink runs the decoded byte: CORE's branch first, giving `u`; the
receiver completes byte `b` in `slot`; the step is `exec` of the row of the table it decodes to, but for a row that waits
for the strobe, which has no effect yet (20_memory.md R75; which rows wait is log 5). -/
def Obligations.StepRunsTheArrivedByte : Prop :=
  ∀ (s u : State) (slot : Slot) (b : Byte) (i : Instr),
    runTurn s.sample s.consume (turn s.core s.sample) = .next u →
    u.disp.rx.received s.core.pins u.core.pins = some (slot, b) →
    decode slot (.bus8 b) = .ok i →
    (waitsForStrobe i = false → step s = exec i (u.watch s.core.pins u.core.pins)) ∧
    (waitsForStrobe i = true → step s = .next (u.watch s.core.pins u.core.pins))

/-- A step in which the strobe rises after a whole command byte that waits for it runs that byte (20_memory.md R75
(a), (c)): the transaction has no further byte. It covers a rise that reset makes, which commits by log 18; which rows wait
is log 5. -/
def Obligations.StepRunsTheCommittedCommand : Prop :=
  ∀ (s u : State) (b : Byte) (i : Instr),
    runTurn s.sample s.consume (turn s.core s.sample) = .next u →
    s.core.stb = false → u.core.stb = true → u.disp.rx.bits = [] → u.disp.rx.trans = some [b] →
    decode .first (.bus8 b) = .ok i → waitsForStrobe i = true →
    step s = exec i (u.watch s.core.pins u.core.pins)

/-- 40_command.md R120, and that the step is total (00_scope.md R8): from every state the step answers a next state,
whose CORE is R120's `step(s, in)`. The other clauses are the model's own: one input record is used up (log 1), the tick
counter advances (log 2), and the receiver of 43_serialize.md R196, attached by log 5, has observed the pins. -/
def Obligations.StepFollowsTheStepRule : Prop :=
  ∀ s : State, ∃ t : State, step s = .next t ∧ t.core = s.core.step s.sample ∧
    t.inputs = s.inputs.tail ∧ t.tick = s.tick + 1 ∧
    t.disp.rx = s.disp.rx.observe s.core.pins t.core.pins

/-- 30_encoding.md R96, first sentence: with `cmd_valid` = 0 an idle CORE changes nothing, whatever `cmd_word` holds. -/
def Obligations.IdleWithoutCommandStays : Prop :=
  ∀ s : State, s.core.busy = false → s.sample.rst = false → s.sample.cmdValid = false → step s = .next s.consume

/-- 40_command.md R126: while BUSY the step is the same whatever is presented on the command port, in the last busy
state too; the command presented in the first idle state after it is taken. -/
def Obligations.BusyDropsCommands : Prop :=
  (∀ (s : State) (i : Inputs) (rest : List Inputs) (v : Bool) (w : CmdWord),
    s.core.busy = true →
    step { s with inputs := i :: rest } =
      step { s with inputs := { i with cmdValid := v, cmdWord := w } :: rest }) ∧
  ∀ (s t : State) (i j : Inputs) (rest : List Inputs),
    s.core.busy = true → step { s with inputs := i :: j :: rest } = .next t → t.core.busy = false →
    j.rst = false → j.cmdValid = true → turn t.core t.sample = .accept (decodeCW j.cmdWord)

/-- 10_state.md R40: `MDONE` changes only by a finishing measurement (set), the acceptance of a MEASURE (clear) or
reset; `RDONE` likewise by the end of a frame and the acceptance of a RENDER; and each of those events does so. -/
def Obligations.DoneFlagsAreSticky : Prop :=
  ∀ s t : State, step s = .next t → s.sample.rst = false →
    (t.core.mdone ≠ s.core.mdone →
      (s.core.mph = .waitFall ∧ t.core.mph = .idle) ∨ (s.core.mph = .idle ∧ t.core.mph = .trigger)) ∧
    (s.core.mph = .waitFall → t.core.mph = .idle → t.core.mdone = true) ∧
    (s.core.mph = .idle → t.core.mph = .trigger → t.core.mdone = false) ∧
    (t.core.rdone ≠ s.core.rdone →
      (s.core.rbusy = true ∧ t.core.rbusy = false) ∨ (s.core.rbusy = false ∧ t.core.rbusy = true)) ∧
    (s.core.rbusy = true → t.core.rbusy = false → t.core.rdone = true) ∧
    (s.core.rbusy = false → t.core.rbusy = true → t.core.rdone = false)

/-! ### Reset -/

/-- 70_reset_and_hazards.md R251: every field and every output in RESET_STATE, and that it meets the invariants. -/
def Obligations.ResetStateIsAsListed : Prop :=
  State.reset.core = Regs.reset ∧
  Regs.reset.mph = .idle ∧ Regs.reset.tcnt = 0 ∧ Regs.reset.wcnt = 0 ∧ Regs.reset.dcnt = 0 ∧ Regs.reset.dur = 0 ∧
  Regs.reset.dist = 0 ∧ Regs.reset.mdone = false ∧ Regs.reset.trig = false ∧ Regs.reset.val = 0 ∧
  (∀ i : Fin 4, Regs.reset.digit[i] = 0xF) ∧ (∀ j : Fin 10, Regs.reset.fb[j] = 0x00) ∧
  Regs.reset.rbusy = false ∧ Regs.reset.rseq = 0 ∧ Regs.reset.bitix = 0 ∧ Regs.reset.sub = .setup ∧
  Regs.reset.hold = 0 ∧ Regs.reset.stb = true ∧ Regs.reset.dclk = false ∧ Regs.reset.dio = false ∧
  Regs.reset.rdone = false ∧
  Regs.reset.outputs = {
    trig := false, stb := true, dclk := false, dio := false, busy := false, mdone := false,
    rdone := false, dist := 0, dur := 0, blinkMs := 50 } ∧
  Regs.reset.Inv

/-- 40_command.md R127 and 70_reset_and_hazards.md R250: `rst` = 1 gives RESET_STATE from every state and whatever
else is presented. -/
def Obligations.ResetWins : Prop :=
  ∀ s : State, s.sample.rst = true → ∃ t : State, step s = .next t ∧ t.core = Regs.reset

/-- What reset does to the display sink (70_reset_and_hazards.md R254, R255; 43_serialize.md R196): with the strobe
high, nothing; with it low, the open transaction is closed with the bytes it has and pending bits are dropped. Where none
are pending that rise of the strobe is a commit point like any other (20_memory.md R75; log 18): CMD_DATA and CMD_DISP
take effect, data behind the first byte are latched, and the device keeps all else. The bytes' values and their effect on
the device's registers are the spec's general knowledge (30_encoding.md R99; log 3, log 5). What the device makes of a
byte cut short or of a command byte outside the table is the model's choice (U8, log 10) and is not stated. -/
def Obligations.ResetClosesTheTransaction : Prop :=
  ∀ s : State, s.sample.rst = true → ∃ t : State, step s = .next t ∧
    (s.core.stb = true → t.disp = s.disp) ∧
    (s.core.stb = false → ∀ bs : List Byte, s.disp.rx.trans = some bs →
      t.disp.rx = { trans := none, bits := [], closed := s.disp.rx.closed ++ [bs] } ∧
      (s.disp.rx.bits = [] → (∀ b ∈ bs.head?, b = 0x40 ∨ b = 0xC0 ∨ b = 0x8F) →
        t.disp.autoInc = (s.disp.autoInc || decide (bs.head? = some 0x40)) ∧ t.disp.addr = s.disp.addr ∧
        t.disp.on = (s.disp.on || decide (bs.head? = some 0x8F)) ∧
        t.disp.level = (if bs.head? = some 0x8F then 7 else s.disp.level) ∧
        ∀ x : Nat, t.disp.ram.readByte x = s.disp.ram.readByte x ∧
          t.disp.latched.readByte x = (if bs.length ≤ 1 then s.disp.latched else s.disp.ram).readByte x))

/-! ### MEASURE -/

/-- 41_measure.md R137: one tick of the trigger pulse. -/
def Obligations.TriggerTickRule : Prop :=
  ∀ (r : Regs) (echo : Bool), r.mph = .trigger →
    (r.tcnt = 9 → r.stepMeasure echo = { r with trig := false, tcnt := 0, mph := .waitRise }) ∧
    (r.tcnt ≠ 9 → r.stepMeasure echo = { r with tcnt := r.tcnt + 1 })

/-- 41_measure.md R139: one tick of the wait for the rise; the poll comes before the count. -/
def Obligations.WaitRiseRule : Prop :=
  ∀ r : Regs, r.mph = .waitRise →
    r.stepMeasure true = { r with dcnt := 1, mph := .waitFall } ∧
    (r.wcnt = 999 → r.stepMeasure false = { r with wcnt := 1000, mph := .waitFall }) ∧
    (r.wcnt ≠ 999 → r.stepMeasure false = { r with wcnt := r.wcnt + 1 })

/-- 41_measure.md R141 with the finishing step of R142: the result is written, the flag set and the engine idle in
one step. -/
def Obligations.WaitFallRule : Prop :=
  ∀ r : Regs, r.mph = .waitFall →
    r.stepMeasure false = { r with
      dcnt := r.dcnt, dur := r.dcnt, dist := BitVec.ofNat 16 (r.dcnt.toNat / 58), mdone := true, mph := .idle } ∧
    (r.dcnt = 29999 → r.stepMeasure true = { r with
      dcnt := 30000, dur := 30000, dist := 517, mdone := true, mph := .idle }) ∧
    (r.dcnt ≠ 29999 → r.stepMeasure true = { r with dcnt := r.dcnt + 1 })

/-- The trigger pulse is exactly ten ticks wide: `trig` is 1 in s_1 to s_10 and 0 in s_11, the first state that waits
for the rise (41_measure.md section 2). -/
def Obligations.TriggerPulseIsTenTicks : Prop :=
  ∀ (r : Regs) (ins : Nat → Inputs), r.AcceptsMeasure (ins 0) → NoReset ins 10 →
    (∀ k, 1 ≤ k → k ≤ 10 → (r.after ins k).trig = true ∧ (r.after ins k).mph = .trigger) ∧
    (r.after ins 11).trig = false ∧ (r.after ins 11).mph = .waitRise

/-- The result of a measurement, for every echo waveform (41_measure.md sections 6 and 7): `rise` is the first of the
steps 11 to 1010 that samples high, or 1011; `h` the number of high samples from it on, cut off at 30000. CORE is busy
from s_1 to s_F, F = rise + min(h, 29999), and s_(F+1) is idle with `MDONE` = 1, `DUR` = h and `DIST` = h / 58. -/
def Obligations.MeasurementResult : Prop :=
  ∀ (r : Regs) (ins : Nat → Inputs) (rise h : Nat),
    r.AcceptsMeasure (ins 0) → 11 ≤ rise → rise ≤ 1011 →
    (∀ k, 11 ≤ k → k < rise → (ins k).echo = false) →
    (rise ≤ 1010 → (ins rise).echo = true) →
    h ≤ 30000 → (∀ j, j < h → (ins (rise + j)).echo = true) →
    (h < 30000 → (ins (rise + h)).echo = false) →
    NoReset ins (rise + min h 29999) →
    (∀ k, 1 ≤ k → k ≤ rise + min h 29999 →
      (r.after ins k).busy = true ∧ (r.after ins k).mdone = false ∧
      (r.after ins k).dur = r.dur ∧ (r.after ins k).dist = r.dist) ∧
    (r.after ins (rise + min h 29999 + 1)).busy = false ∧
    (r.after ins (rise + min h 29999 + 1)).mdone = true ∧
    (r.after ins (rise + min h 29999 + 1)).dur.toNat = h ∧
    (r.after ins (rise + min h 29999 + 1)).dist.toNat = h / 58 ∧
    (r.after ins (rise + min h 29999 + 1)).wcnt.toNat = rise - 11

/-- A measurement always ends, whatever the echo line and the command port do: after at least 12 and at most 31010
busy ticks, with a result in range (41_measure.md section 7). -/
def Obligations.MeasurementAlwaysEnds : Prop :=
  ∀ (r : Regs) (ins : Nat → Inputs), r.AcceptsMeasure (ins 0) → NoReset ins 31010 →
    ∃ F : Nat, 12 ≤ F ∧ F ≤ 31010 ∧ (∀ k, 1 ≤ k → k ≤ F → (r.after ins k).busy = true) ∧
      (r.after ins (F + 1)).busy = false ∧ (r.after ins (F + 1)).mdone = true ∧
      (r.after ins (F + 1)).dur.toNat ≤ 30000 ∧ (r.after ins (F + 1)).dist.toNat ≤ 517

/-- Outside the two polling phases the echo line is not read (41_measure.md section 8). -/
def Obligations.EchoIgnoredOutsidePolling : Prop :=
  ∀ (s : State) (i : Inputs) (rest : List Inputs) (e : Bool),
    s.core.mph ≠ .waitRise → s.core.mph ≠ .waitFall →
    step { s with inputs := i :: rest } = step { s with inputs := { i with echo := e } :: rest }

/-- `DUR` and `DIST` change in the finishing step of a measurement only (reset apart), together with `MDONE`, and then
`DIST` = `DUR` / 58 (10_state.md section 4; 20_memory.md section 4 (a)). -/
def Obligations.ResultsChangeOnlyAtTheFinish : Prop :=
  ∀ s t : State, step s = .next t → s.sample.rst = false →
    (¬(s.core.mph = .waitFall ∧ t.core.mph = .idle) → t.core.dur = s.core.dur ∧ t.core.dist = s.core.dist) ∧
    (s.core.mph = .waitFall ∧ t.core.mph = .idle →
      t.core.mdone = true ∧ t.core.dur = t.core.dcnt ∧ t.core.dist.toNat = t.core.dur.toNat / 58)

/-- 41_measure.md R144: the properties of `distance`. -/
def Obligations.DistanceIsFloorDivision : Prop :=
  ∀ d : Nat, distance d = d / 58 ∧ 58 * distance d ≤ d ∧ d < 58 * (distance d + 1) ∧
    (d ≤ 30000 → distance d < 518) ∧ ∀ e : Nat, d ≤ e → distance d ≤ distance e

/-- The reciprocal multiply of 41_measure.md section 8 gives `distance` over the whole range. -/
def Obligations.ReciprocalGivesDistance : Prop :=
  ∀ d : Nat, d ≤ 30000 → (d * 18079) >>> 20 = distance d

/-! ### The digit encoder -/

/-- 42_digits.md R160 and R161: the clamp, which is not stored, and the four decimal digits. -/
def Obligations.ClampAndDecimalDigits : Prop :=
  (∀ (r : Regs) (a : Arg), (r.startRender hardware a).val = a) ∧
  ∀ v : Nat,
    clamp v = min v 9999 ∧
    thousands (clamp v) = clamp v / 1000 ∧ hundreds (clamp v) = clamp v / 100 % 10 ∧
    tens (clamp v) = clamp v / 10 % 10 ∧ ones (clamp v) = clamp v % 10 ∧
    thousands (clamp v) ≤ 9 ∧ hundreds (clamp v) ≤ 9 ∧ tens (clamp v) ≤ 9 ∧ ones (clamp v) ≤ 9 ∧
    clamp v = 1000 * thousands (clamp v) + 100 * hundreds (clamp v) + 10 * tens (clamp v) + ones (clamp v)

/-- 42_digits.md R162: a position is blank exactly when it and all before it are zero, the ones position never; a
position that is not blank shows its digit. -/
def Obligations.LeadingZerosAreBlanked : Prop :=
  ∀ v : Nat,
    ((split v)[0] = blank ↔ clamp v < 1000) ∧ ((split v)[1] = blank ↔ clamp v < 100) ∧
    ((split v)[2] = blank ↔ clamp v < 10) ∧ (split v)[3] ≠ blank ∧
    ((split v)[0] ≠ blank → (split v)[0].toNat = thousands (clamp v)) ∧
    ((split v)[1] ≠ blank → (split v)[1].toNat = hundreds (clamp v)) ∧
    ((split v)[2] ≠ blank → (split v)[2].toNat = tens (clamp v)) ∧
    (split v)[3].toNat = ones (clamp v)

/-- 42_digits.md R164: the source's examples. -/
def Obligations.SplitExamples : Prop :=
  split 0 = #v[0xF, 0xF, 0xF, 0] ∧ split 7 = #v[0xF, 0xF, 0xF, 7] ∧ split 42 = #v[0xF, 0xF, 4, 2] ∧
  split 123 = #v[0xF, 1, 2, 3] ∧ split 12345 = split 9999 ∧ split 9999 = #v[9, 9, 9, 9]

/-- 42_digits.md R169: the round-trip law, and the clamp above it. -/
def Obligations.JoinOfSplit : Prop :=
  ∀ n : Nat, (n ≤ 9999 → join (split n) = n) ∧ (9999 < n → join (split n) = 9999)

/-- 42_digits.md R166: `seg` of every code, for every table. -/
def Obligations.SegmentOfEveryCode : Prop :=
  ∀ (c : Config) (e : DigitCode),
    (∀ h : e.toNat < 10, seg c e = c.seg[e.toNat]) ∧ (e = 0xF → seg c e = 0x00) ∧
    (10 ≤ e.toNat → e.toNat ≤ 14 → seg c e = 0x00)

/-- The bit-to-segment map (30_encoding.md R100). For every legal map a pattern is known from the segments it lights, and
the blank pattern lights none. On this hardware bits 0 to 7 are a to g and the decimal point, a bit equal to 1 lights its
segment, no pattern `seg` gives lights the decimal point, and the digits light the segments listed (the map and the
patterns are the spec's general knowledge, log 3). -/
def Obligations.SegmentsOfAPattern : Prop :=
  (∀ (c : Config) (p q : Byte), c.segments.wf → (∀ x, segmentLit c p x = segmentLit c q x) → p = q) ∧
  (∀ (c : Config) (x : Segment), segmentLit c (seg c blank) x = false) ∧
  hardware.segments.wf ∧
  (∀ p : Byte, segmentLit hardware p .a = p.getLsbD 0 ∧ segmentLit hardware p .b = p.getLsbD 1 ∧
    segmentLit hardware p .c = p.getLsbD 2 ∧ segmentLit hardware p .d = p.getLsbD 3 ∧
    segmentLit hardware p .e = p.getLsbD 4 ∧ segmentLit hardware p .f = p.getLsbD 5 ∧
    segmentLit hardware p .g = p.getLsbD 6 ∧ segmentLit hardware p .dp = p.getLsbD 7) ∧
  (∀ e : DigitCode, segmentLit hardware (seg hardware e) .dp = false) ∧
  ∀ x : Segment,
    (segmentLit hardware (seg hardware 0) x = true ↔ x ∈ [.a, .b, .c, .d, .e, .f]) ∧
    (segmentLit hardware (seg hardware 1) x = true ↔ x ∈ [.b, .c]) ∧
    (segmentLit hardware (seg hardware 2) x = true ↔ x ∈ [.a, .b, .d, .e, .g]) ∧
    (segmentLit hardware (seg hardware 3) x = true ↔ x ∈ [.a, .b, .c, .d, .g]) ∧
    (segmentLit hardware (seg hardware 4) x = true ↔ x ∈ [.b, .c, .f, .g]) ∧
    (segmentLit hardware (seg hardware 5) x = true ↔ x ∈ [.a, .c, .d, .f, .g]) ∧
    (segmentLit hardware (seg hardware 6) x = true ↔ x ∈ [.a, .c, .d, .e, .f, .g]) ∧
    (segmentLit hardware (seg hardware 7) x = true ↔ x ∈ [.a, .b, .c]) ∧
    (segmentLit hardware (seg hardware 8) x = true ↔ x ∈ [.a, .b, .c, .d, .e, .f, .g]) ∧
    (segmentLit hardware (seg hardware 9) x = true ↔ x ∈ [.a, .b, .c, .d, .f, .g])

/-- 43_serialize.md R182: the ten bytes of a frame and their loading, for every configuration, and the example of
42. -/
def Obligations.FrameHasTheseTenBytes : Prop :=
  (∀ (c : Config) (B : Vector DigitCode 4),
    (frame c B).toList =
      [c.cmdData, c.cmdAddr, seg c B[0], 0x00, seg c B[1], 0x00, seg c B[2], 0x00, seg c B[3], c.cmdDisp]) ∧
  (∀ (c : Config) (r : Regs) (v : Arg) (j : Fin 10),
    (r.startRender c v).fb[j] = (frame c (split v.toNat))[j]) ∧
  (frame hardware (split 42)).toList = [0x40, 0xC0, 0x00, 0x00, 0x00, 0x00, 0x66, 0x00, 0x5B, 0x8F]

/-! ### The display serializer -/

/-- 43_serialize.md R183, for every configuration: count down a hold, else act on the micro-op. -/
def Obligations.SerializerStepRule : Prop :=
  ∀ (c : Config) (r : Regs),
    (r.hold ≠ 0 → r.stepRender c = { r with hold := r.hold - 1 }) ∧
    (r.hold = 0 → microOp r.rseq = .stb0 ∨ microOp r.rseq = .stb1 → r.stepRender c = r.nextOp c) ∧
    (∀ j, r.hold = 0 → microOp r.rseq = .byte j → r.stepRender c = r.bitStep c j)

/-- 43_serialize.md R185 and R186, for every configuration: entering a micro-op. -/
def Obligations.EnterMicroOpRule : Prop :=
  ∀ (c : Config) (r : Regs),
    r.enter c .stb0 = { r with stb := false, hold := BitVec.ofNat 4 (c.tStb - 1) } ∧
    r.enter c .stb1 = { r with stb := true, hold := BitVec.ofNat 4 (c.tStb - 1) } ∧
    ∀ j : Fin 10, r.enter c (.byte j) = { r with
      bitix := 0, sub := .setup, dio := r.fb[j].getLsbD 0, hold := BitVec.ofNat 4 (c.tDsu - 1) }

/-- 43_serialize.md R188, for every configuration: a step inside a byte. -/
def Obligations.BitStepRule : Prop :=
  ∀ (c : Config) (r : Regs) (j : Fin 10),
    (r.sub = .setup → r.bitStep c j =
      { r with dclk := true, sub := .high, hold := BitVec.ofNat 4 (c.tCkh - 1) }) ∧
    (r.sub = .high → r.bitStep c j =
      { r with dclk := false, sub := .low, hold := BitVec.ofNat 4 (c.tCkl - 1) }) ∧
    (r.sub = .low → r.bitix = 7 → r.bitStep c j = r.nextOp c) ∧
    (r.sub = .low → r.bitix ≠ 7 → r.bitStep c j =
      { r with
        bitix := r.bitix + 1, sub := .setup, dio := r.fb[j].getLsbD (r.bitix.toNat + 1),
        hold := BitVec.ofNat 4 (c.tDsu - 1) })

/-- 43_serialize.md R190, for every configuration: moving on, and the end of the frame. -/
def Obligations.NextOpRule : Prop :=
  ∀ (c : Config) (r : Regs),
    (r.rseq = 15 → r.nextOp c = { r with rbusy := false, rdone := true, rseq := 0 }) ∧
    (r.rseq ≠ 15 → r.nextOp c = ({ r with rseq := r.rseq + 1 } : Regs).enter c (microOp (r.rseq + 1)))

/-- 43_serialize.md R187: the bit shifter is the bit-shift primitive. From the entry of BYTE(j) the pins run through
`BusShift(FB[j])` tick by tick, for every configuration with legal hold times and every byte. On this hardware that is
96 ticks, 12 for each bit: two of set-up, five with the clock high, five with it low, the strobe low throughout. -/
def Obligations.BitShifterIsBusShift : Prop :=
  (∀ (c : Config) (r : Regs) (j : Fin 10), c.wf →
    microOp r.rseq = .byte j → r.stb = false → r.dclk = false →
    (List.range (8 * (c.tDsu + c.tCkh + c.tCkl))).map
      (fun t => ((Regs.stepRender c)^[t] (r.enter c (.byte j))).pins) = busShift c r.fb[j]) ∧
  ∀ b : Byte, (busShift hardware b).length = 96 ∧
    ∀ i x, i < 8 → x < 12 → (busShift hardware b)[12 * i + x]? =
      some { stb := false, dclk := decide (2 ≤ x ∧ x < 7), dio := b.getLsbD i }

/-- 43_serialize.md R195: what `BusShift` puts on the data line at the rising clock edges is the byte, least
significant bit first, for every byte and every legal configuration; the source's example 0x05. -/
def Obligations.BusShiftSendsLowBitFirst : Prop :=
  (∀ (c : Config) (b : Byte), c.wf → risingLevels (busShift c b) = (List.range 8).map b.getLsbD) ∧
  risingLevels (busShift hardware 0x05) = [true, false, true, false, false, false, false, false]

/-- A frame is busy for exactly 1020 ticks, whatever its operand and whatever the inputs: s_1 to s_1020; s_1021 is
idle with `RDONE` = 1 (43_serialize.md section 7). -/
def Obligations.FrameTakes1020Ticks : Prop :=
  ∀ (r : Regs) (ins : Nat → Inputs) (v : Arg), r.AcceptsRender (ins 0) v → NoReset ins 1020 →
    (∀ k, 1 ≤ k → k ≤ 1020 → (r.after ins k).busy = true ∧ (r.after ins k).rdone = false) ∧
    (r.after ins 1021).busy = false ∧ (r.after ins 1021).rdone = true

/-- The schedule of a frame (43_serialize.md section 7): micro-op q is in progress from s_(1+E[q]) on; a strobe
micro-op holds its level with the clock low for ten ticks; in a byte, bit i is on the data line in the twelve states
from s_(1+E[q]+12i) on, and the clock is high in the third to seventh of them. -/
def Obligations.FrameSchedule : Prop :=
  ∀ (r : Regs) (ins : Nat → Inputs) (v : Arg),
    r.AcceptsRender (ins 0) v → r.dclk = false → NoReset ins 1020 →
    (∀ t, t < 1020 → (r.after ins (1 + t)).rbusy = true ∧ (r.after ins (1 + t)).frameTick = t) ∧
    (∀ (q : BitVec 4) (x : Nat), (microOp q = .stb0 ∨ microOp q = .stb1) → x < 10 →
      (r.after ins (1 + entryTick[q.toNat]'q.isLt + x)).rseq = q ∧
      (r.after ins (1 + entryTick[q.toNat]'q.isLt + x)).stb = (microOp q).strobe ∧
      (r.after ins (1 + entryTick[q.toNat]'q.isLt + x)).dclk = false) ∧
    (∀ (q : BitVec 4) (j : Fin 10) (i x : Nat), microOp q = .byte j → i < 8 → x < 12 →
      (r.after ins (1 + entryTick[q.toNat]'q.isLt + 12 * i + x)).rseq = q ∧
      (r.after ins (1 + entryTick[q.toNat]'q.isLt + 12 * i + x)).pins =
        {
          stb := false
          dclk := decide (2 ≤ x ∧ x < 7)
          dio := ((frame hardware (split v.toNat))[j]).getLsbD i })

/-- What the receiver and the display get from one whole RENDER of `v` (43_serialize.md section 8; 20_memory.md
sections 1 and 2; 30_encoding.md section 4): three transactions with the frame's bytes; columns A + 0 to A + 6 hold
the four patterns with zeros between, A = 0; every other column is as before; all of them are latched; the display is on
at the highest brightness. The command bytes' values and their effect on the device are the spec's general knowledge (log 3, log 5). -/
def Obligations.ReceiverGetsTheFrame : Prop :=
  ∀ (s : State) (i : Inputs) (rest : List Inputs) (v : Arg),
    s.Inv → s.inputs = i :: rest → s.core.AcceptsRender i v → 1020 ≤ rest.length →
    (∀ k ∈ rest.take 1020, k.rst = false) →
    ∃ t : State, s.runFor 1021 = .next t ∧
      t.disp.rx.trans = none ∧ t.disp.rx.bits = [] ∧
      t.disp.rx.closed = s.disp.rx.closed ++
        [[0x40],
         [0xC0, seg hardware (split v.toNat)[0], 0x00, seg hardware (split v.toNat)[1], 0x00,
           seg hardware (split v.toNat)[2], 0x00, seg hardware (split v.toNat)[3]],
         [0x8F]] ∧
      t.disp.ram.readByte 0 = some (seg hardware (split v.toNat)[0]) ∧ t.disp.ram.readByte 1 = some 0x00 ∧
      t.disp.ram.readByte 2 = some (seg hardware (split v.toNat)[1]) ∧ t.disp.ram.readByte 3 = some 0x00 ∧
      t.disp.ram.readByte 4 = some (seg hardware (split v.toNat)[2]) ∧ t.disp.ram.readByte 5 = some 0x00 ∧
      t.disp.ram.readByte 6 = some (seg hardware (split v.toNat)[3]) ∧
      (∀ x : Nat, 7 ≤ x → t.disp.ram.readByte x = s.disp.ram.readByte x) ∧
      (∀ x : Nat, t.disp.latched.readByte x = t.disp.ram.readByte x) ∧
      t.disp.on = true ∧ t.disp.level = 7 ∧ t.disp.autoInc = true

/-- A running frame reads no input but `rst` (43_serialize.md section 8; 20_memory.md section 10). -/
def Obligations.RunningFrameIgnoresInputs : Prop :=
  ∀ (s : State) (i j : Inputs) (rest : List Inputs),
    s.core.mph = .idle → s.core.rbusy = true → i.rst = false → j.rst = false →
    step { s with inputs := i :: rest } = step { s with inputs := j :: rest }

/-- The data line moves only while the clock is low and never in the step that raises it; the strobe moves only while
the clock is low, reset apart (70_reset_and_hazards.md section 3, display pins (b) and (c)). -/
def Obligations.DisplayPinsMoveWithClockLow : Prop :=
  ∀ s t : State, s.Inv → step s = .next t → s.sample.rst = false →
    (t.core.dio ≠ s.core.dio → s.core.dclk = false ∧ t.core.dclk = false) ∧
    (t.core.stb ≠ s.core.stb → s.core.dclk = false ∧ t.core.dclk = false)

/-- The two engines never overlap on the pins: while the trigger is high the bus is idle, a busy timer moves no
display pin, and a busy serializer never raises the trigger (40_command.md section 1; 20_memory.md section 7). -/
def Obligations.EnginesNeverOverlap : Prop :=
  ∀ s t : State, s.Inv → step s = .next t →
    (t.core.trig = true → t.core.stb = true ∧ t.core.dclk = false ∧ t.core.rbusy = false) ∧
    (s.sample.rst = false → s.core.mph ≠ .idle → t.core.pins = s.core.pins) ∧
    (s.core.rbusy = true → t.core.trig = false)

/-- No operation's result depends on what an earlier one left behind (10_state.md section 8; 90_conflicts.md C9). Two COREs
that accept the same RENDER agree in every field of the frame from s_1 on, but for `BITIX`, `SUB` and `DIO`, which keep
what they were during the first settle (40_command.md R123, 43_serialize.md R194; log 19) and agree from s_11 on. Two that
accept a MEASURE and see the same inputs agree in the timer's fields while it runs and in its results when it ends. -/
def Obligations.NoResultDependsOnThePast : Prop :=
  (∀ (r q : Regs) (ins : Nat → Inputs) (v : Arg) (k : Nat),
    r.AcceptsRender (ins 0) v → q.AcceptsRender (ins 0) v → r.dclk = false → q.dclk = false → NoReset ins 1020 →
    1 ≤ k → k ≤ 1021 →
    (r.after ins k).val = (q.after ins k).val ∧ (r.after ins k).digit = (q.after ins k).digit ∧
    (r.after ins k).fb = (q.after ins k).fb ∧ (r.after ins k).rbusy = (q.after ins k).rbusy ∧
    (r.after ins k).rseq = (q.after ins k).rseq ∧ (r.after ins k).hold = (q.after ins k).hold ∧
    (r.after ins k).stb = (q.after ins k).stb ∧ (r.after ins k).dclk = (q.after ins k).dclk ∧
    (r.after ins k).rdone = (q.after ins k).rdone ∧
    (k ≤ 10 → (r.after ins k).bitix = r.bitix ∧ (r.after ins k).sub = r.sub ∧ (r.after ins k).dio = r.dio) ∧
    (11 ≤ k → (r.after ins k).bitix = (q.after ins k).bitix ∧ (r.after ins k).sub = (q.after ins k).sub ∧
      (r.after ins k).dio = (q.after ins k).dio)) ∧
  ∀ (r q : Regs) (ins : Nat → Inputs) (n : Nat),
    r.AcceptsMeasure (ins 0) → q.AcceptsMeasure (ins 0) → NoReset ins n →
    (∀ j, 1 ≤ j → j ≤ n → (r.after ins j).mph ≠ .idle) →
    (r.after ins (n + 1)).mph = (q.after ins (n + 1)).mph ∧ (r.after ins (n + 1)).trig = (q.after ins (n + 1)).trig ∧
    (r.after ins (n + 1)).tcnt = (q.after ins (n + 1)).tcnt ∧ (r.after ins (n + 1)).wcnt = (q.after ins (n + 1)).wcnt ∧
    (r.after ins (n + 1)).dcnt = (q.after ins (n + 1)).dcnt ∧
    (r.after ins (n + 1)).mdone = (q.after ins (n + 1)).mdone ∧
    ((r.after ins (n + 1)).mph = .idle →
      (r.after ins (n + 1)).dur = (q.after ins (n + 1)).dur ∧ (r.after ins (n + 1)).dist = (q.after ins (n + 1)).dist)

/-! ### Invariants -/

/-- The invariants hold after reset (10_state.md section 11). -/
def Obligations.InvariantHoldsAtReset : Prop := State.reset.Inv

/-- CORE's invariants, clauses (a) to (j) of 10_state.md section 11 and what makes them inductive, are kept by every
step under every input. -/
def Obligations.StepKeepsTheCoreInvariant : Prop :=
  ∀ (r : Regs) (i : Inputs), r.Inv → (r.step i).Inv

/-- The machine's invariants are kept by every step: CORE's, the canonical form of the column stores, and that the
receiver holds exactly the whole bytes and the bits that the serializer has sent of the open transaction. -/
def Obligations.StepKeepsTheMachineInvariant : Prop :=
  ∀ s t : State, s.Inv → step s = .next t → t.Inv

/-! ### The display sink -/

/-- CMD_DATA, CMD_ADDR and CMD_DISP at the display sink, when each is run (20_memory.md section 1, 30_encoding.md section
4; the effects are the spec's general knowledge, log 3, log 5). -/
def Obligations.CommandBytesSetTheDisplay : Prop :=
  ∀ s : State,
    exec .cmdData s = .next { s with disp := { s.disp with autoInc := true } } ∧
    exec .cmdAddr s = .next { s with disp := { s.disp with addr := 0 } } ∧
    exec .cmdDisp s = .next { s with disp := { s.disp with on := true, level := 7 } }

/-- DUMMY, SEG0 to SEG9 and SEG_BLANK at the display sink: the row's byte goes to the current column and the address
advances; where no address is in force both are free values, and nothing is latched yet (20_memory.md section 1; the patterns are the spec's
general knowledge, log 3; that the sink stores a byte when it is complete is log 5; the free values are the model's,
log 9). -/
def Obligations.DataBytesAreStored : Prop :=
  ∀ (s : State) (i : Instr) (b : Byte),
    (i, b) ∈ [(Instr.dummy, 0x00#8), (.seg0, 0x3F#8), (.seg1, 0x06#8), (.seg2, 0x5B#8), (.seg3, 0x4F#8),
      (.seg4, 0x66#8), (.seg5, 0x6D#8), (.seg6, 0x7D#8), (.seg7, 0x07#8), (.seg8, 0x7F#8), (.seg9, 0x6F#8),
      (.segBlank, 0x00#8)] →
    ∃ t : State, exec i s = .next t ∧ t.core = s.core ∧
      t.disp.ram.readByte (s.disp.column s.tick) = some b ∧ t.disp.latched = s.disp.latched ∧
      (s.disp.addressed = true → s.disp.column s.tick = s.disp.addr ∧ t.disp.addr = s.disp.addr + 1) ∧
      (s.disp.addressed = false →
        s.disp.column s.tick = Config.freeColumn s.tick ∧ t.disp.addr = Config.freeAddr s.tick)

/-- The frame of the fifteen wire bytes: none touches CORE, the inputs, the receiver; a command byte leaves every
column, a data byte every column but the one it goes to; none latches; and each writes only the device register named
(20_memory.md section 1; which byte writes which register is log 5). -/
def Obligations.WireByteFrame : Prop :=
  ∀ (s t : State) (i : Instr) (slot : Slot), slot ≠ .port → i.wellFormed slot = true → exec i s = .next t →
    t.core = s.core ∧ t.inputs = s.inputs ∧ t.tick = s.tick ∧ t.disp.rx = s.disp.rx ∧
    (∀ x : Nat, t.disp.latched.readByte x = s.disp.latched.readByte x) ∧
    (i ≠ .cmdData → t.disp.autoInc = s.disp.autoInc) ∧
    (i ≠ .cmdDisp → t.disp.on = s.disp.on ∧ t.disp.level = s.disp.level) ∧
    (slot = .first → (i ≠ .cmdAddr → t.disp.addr = s.disp.addr) ∧
      ∀ x : Nat, t.disp.ram.readByte x = s.disp.ram.readByte x) ∧
    (slot ≠ .first → ∀ x : Nat, x ≠ s.disp.column s.tick →
      t.disp.ram.readByte x = s.disp.ram.readByte x)

/-- The commit points of 20_memory.md R75. The device's write mode, its display control and the columns it shows change in
no step in which the strobe does not rise. In a step in which it rises after whole bytes of the table: CMD_DATA sets the
write mode, CMD_DISP the display control, data behind the first byte are latched, and no column and no address changes
(the effects are log 3 and log 5; a rise that reset makes is log 18). -/
def Obligations.DeviceCommitsAtTheStrobe : Prop :=
  ∀ s t : State, step s = .next t →
    (¬(s.core.stb = false ∧ t.core.stb = true) →
      t.disp.autoInc = s.disp.autoInc ∧ t.disp.on = s.disp.on ∧ t.disp.level = s.disp.level ∧
      ∀ x : Nat, t.disp.latched.readByte x = s.disp.latched.readByte x) ∧
    (∀ (b : Byte) (data : List Byte), s.core.stb = false → t.core.stb = true → s.disp.rx.bits = [] →
      s.disp.rx.trans = some (b :: data) → b = 0x40 ∨ b = 0xC0 ∨ b = 0x8F →
      t.disp.autoInc = (s.disp.autoInc || decide (b = 0x40)) ∧ t.disp.addr = s.disp.addr ∧
      t.disp.on = (s.disp.on || decide (b = 0x8F)) ∧
      t.disp.level = (if b = 0x8F then 7 else s.disp.level) ∧
      ∀ x : Nat, t.disp.ram.readByte x = s.disp.ram.readByte x ∧
        t.disp.latched.readByte x = (if data = [] then s.disp.latched else s.disp.ram).readByte x)

/-! ### Ports, the blink mapping and the host's scripts -/

/-- 10_state.md R45: every output as a function of the state, BUSY(s) being that of R41. -/
def Obligations.OutputsAreMoore : Prop :=
  ∀ r : Regs,
    r.outputs.trig = r.trig ∧ r.outputs.stb = r.stb ∧ r.outputs.dclk = r.dclk ∧ r.outputs.dio = r.dio ∧
    (r.outputs.busy = true ↔ r.mph ≠ .idle ∨ r.rbusy = true) ∧ r.outputs.mdone = r.mdone ∧
    r.outputs.rdone = r.rdone ∧ r.outputs.dist = r.dist ∧ r.outputs.dur = r.dur ∧
    r.outputs.blinkMs.toNat = blinkDelay r.dist.toNat

/-- 44_blink.md R210 and R211: the six buckets, the test values, monotonic, and the largest `DIST`. -/
def Obligations.BlinkDelayBuckets : Prop :=
  (∀ x : Nat, (x ≤ 2 → blinkDelay x = 50) ∧ (3 ≤ x → x ≤ 4 → blinkDelay x = 100) ∧
    (5 ≤ x → x ≤ 8 → blinkDelay x = 200) ∧ (9 ≤ x → x ≤ 16 → blinkDelay x = 400) ∧
    (17 ≤ x → x ≤ 32 → blinkDelay x = 700) ∧ (33 ≤ x → blinkDelay x = 1000)) ∧
  (∀ x y : Nat, x ≤ y → blinkDelay x ≤ blinkDelay y) ∧
  blinkDelay 2 = 50 ∧ blinkDelay 3 = 100 ∧ blinkDelay 8 = 200 ∧ blinkDelay 9 = 400 ∧ blinkDelay 16 = 400 ∧
  blinkDelay 17 = 700 ∧ blinkDelay 33 = 1000 ∧ blinkDelay 0 = 50 ∧ blinkDelay 517 = 1000 ∧ blinkDelay 65535 = 1000

/-- What the lines of a host script present in a tick (30_encoding.md section 7), and what the host does next. That a line
is presented while BUSY = 1 too, and when a wait line takes a tick, are the model's choices (log 16). -/
def Obligations.ScriptLinesPresentTheirWords : Prop :=
  ∀ (o : Outputs) (ls : List HostLine) (n w : Nat),
    hostTick o (.nop :: ls) = (.present 0x00000, ls) ∧
    hostTick o (.measure :: ls) = (.present 0x10000, ls) ∧
    (n ≤ 65535 → hostTick o (.render n :: ls) = (.present (0x20000 + n), ls) ∧
      decodeCW (HostDrive.present (0x20000 + n)).cmdWord = .render (BitVec.ofNat 16 n)) ∧
    hostTick o (.renderDist :: ls) = (.present (0x20000 + o.dist.toNat), ls) ∧
    decodeCW (HostDrive.present (0x20000 + o.dist.toNat)).cmdWord = .render o.dist ∧
    hostTick o (.word w :: ls) = (.present w, ls) ∧
    hostTick o (.idle (n + 1) :: ls) = (.quiet, .idle n :: ls) ∧
    hostTick o (.reset (n + 1) :: ls) = (.resetting, .reset n :: ls) ∧
    (o.mdone = false → hostTick o (.waitM :: ls) = (.quiet, .waitM :: ls)) ∧
    (o.rdone = false → hostTick o (.waitR :: ls) = (.quiet, .waitR :: ls)) ∧
    (o.busy = true → hostTick o (.wait :: ls) = (.quiet, .wait :: ls)) ∧
    hostTick o (.cycle :: ls) = hostTick o (.measure :: .waitM :: .renderDist :: .waitR :: ls)
end

