-- ==== Sys2Proof/Laws/State.lean ====
section
/-! SUPPORT. One lemma per field per named update: what each operation writes and what it leaves, true by rfl. -/

namespace Sys2Proof.Machine

variable (r : Regs) (s : State)

/-! ### Flags -/

@[simp] theorem Regs.setMdone_mdone : r.setMdone.mdone = true := rfl
@[simp] theorem Regs.setMdone_rdone : r.setMdone.rdone = r.rdone := rfl
@[simp] theorem Regs.clearMdone_mdone : r.clearMdone.mdone = false := rfl
@[simp] theorem Regs.clearMdone_rdone : r.clearMdone.rdone = r.rdone := rfl
@[simp] theorem Regs.setRdone_rdone : r.setRdone.rdone = true := rfl
@[simp] theorem Regs.setRdone_mdone : r.setRdone.mdone = r.mdone := rfl
@[simp] theorem Regs.clearRdone_rdone : r.clearRdone.rdone = false := rfl
@[simp] theorem Regs.clearRdone_mdone : r.clearRdone.mdone = r.mdone := rfl
@[simp] theorem Regs.setMdone_setMdone : r.setMdone.setMdone = r.setMdone := rfl

/-! ### Holds -/

section
variable (n : Nat)
@[simp] theorem Regs.startHold_hold : (r.startHold n).hold = BitVec.ofNat 4 (n - 1) := rfl
@[simp] theorem Regs.startHold_mph : (r.startHold n).mph = r.mph := rfl
@[simp] theorem Regs.startHold_tcnt : (r.startHold n).tcnt = r.tcnt := rfl
@[simp] theorem Regs.startHold_wcnt : (r.startHold n).wcnt = r.wcnt := rfl
@[simp] theorem Regs.startHold_dcnt : (r.startHold n).dcnt = r.dcnt := rfl
@[simp] theorem Regs.startHold_dur : (r.startHold n).dur = r.dur := rfl
@[simp] theorem Regs.startHold_dist : (r.startHold n).dist = r.dist := rfl
@[simp] theorem Regs.startHold_mdone : (r.startHold n).mdone = r.mdone := rfl
@[simp] theorem Regs.startHold_trig : (r.startHold n).trig = r.trig := rfl
@[simp] theorem Regs.startHold_val : (r.startHold n).val = r.val := rfl
@[simp] theorem Regs.startHold_digit : (r.startHold n).digit = r.digit := rfl
@[simp] theorem Regs.startHold_fb : (r.startHold n).fb = r.fb := rfl
@[simp] theorem Regs.startHold_rbusy : (r.startHold n).rbusy = r.rbusy := rfl
@[simp] theorem Regs.startHold_rseq : (r.startHold n).rseq = r.rseq := rfl
@[simp] theorem Regs.startHold_bitix : (r.startHold n).bitix = r.bitix := rfl
@[simp] theorem Regs.startHold_sub : (r.startHold n).sub = r.sub := rfl
@[simp] theorem Regs.startHold_stb : (r.startHold n).stb = r.stb := rfl
@[simp] theorem Regs.startHold_dclk : (r.startHold n).dclk = r.dclk := rfl
@[simp] theorem Regs.startHold_dio : (r.startHold n).dio = r.dio := rfl
@[simp] theorem Regs.startHold_rdone : (r.startHold n).rdone = r.rdone := rfl
end

/-! ### Pins -/

@[simp] theorem Regs.pins_stb : r.pins.stb = r.stb := rfl
@[simp] theorem Regs.pins_dclk : r.pins.dclk = r.dclk := rfl
@[simp] theorem Regs.pins_dio : r.pins.dio = r.dio := rfl

/-! ### Inputs and reset -/

@[simp] theorem State.consume_core : s.consume.core = s.core := rfl
@[simp] theorem State.consume_disp : s.consume.disp = s.disp := rfl
@[simp] theorem State.consume_inputs : s.consume.inputs = s.inputs.tail := rfl
@[simp] theorem State.consume_tick : s.consume.tick = s.tick + 1 := rfl
@[simp] theorem State.takeReset_core : s.takeReset.core = Regs.reset := rfl
@[simp] theorem State.takeReset_disp : s.takeReset.disp = s.disp := rfl
@[simp] theorem State.takeReset_inputs : s.takeReset.inputs = s.inputs := rfl
@[simp] theorem State.takeReset_tick : s.takeReset.tick = s.tick := rfl

/-- With a listed input record, that record is sampled. -/
@[simp] theorem State.sample_cons (i : Inputs) (is : List Inputs) :
    ({ s with inputs := i :: is } : State).sample = i := rfl

/-! ### The display sink -/

section
variable (n : Nat) (b : Byte) (d : Display) (p q : Pins)
@[simp] theorem Display.storeData_rx : (d.storeData n b).rx = d.rx := rfl
@[simp] theorem Display.storeData_autoInc : (d.storeData n b).autoInc = d.autoInc := rfl
@[simp] theorem Display.storeData_on : (d.storeData n b).on = d.on := rfl
@[simp] theorem Display.storeData_level : (d.storeData n b).level = d.level := rfl
@[simp] theorem Display.storeData_ram : (d.storeData n b).ram = d.ram.writeByte (d.column n) b := rfl
@[simp] theorem Display.lose_rx : (d.lose n).rx = d.rx := rfl
@[simp] theorem Display.lose_ram : (d.lose n).ram = [] := rfl
@[simp] theorem Display.lose_latched : (d.lose n).latched = [] := rfl
@[simp] theorem Display.storeData_latched : (d.storeData n b).latched = d.latched := rfl
@[simp] theorem State.latch_core : s.latch.core = s.core := rfl
@[simp] theorem State.latch_inputs : s.latch.inputs = s.inputs := rfl
@[simp] theorem State.latch_tick : s.latch.tick = s.tick := rfl
@[simp] theorem State.latch_rx : s.latch.disp.rx = s.disp.rx := rfl
@[simp] theorem State.latch_ram : s.latch.disp.ram = s.disp.ram := rfl
@[simp] theorem State.latch_latched : s.latch.disp.latched = s.disp.ram := rfl
@[simp] theorem State.latch_autoInc : s.latch.disp.autoInc = s.disp.autoInc := rfl
@[simp] theorem State.latch_addr : s.latch.disp.addr = s.disp.addr := rfl
@[simp] theorem State.latch_on : s.latch.disp.on = s.disp.on := rfl
@[simp] theorem State.latch_level : s.latch.disp.level = s.disp.level := rfl
@[simp] theorem State.storeData_core : (s.storeData b).core = s.core := rfl
@[simp] theorem State.storeData_disp : (s.storeData b).disp = s.disp.storeData s.tick b := rfl
@[simp] theorem State.storeData_inputs : (s.storeData b).inputs = s.inputs := rfl
@[simp] theorem State.storeData_tick : (s.storeData b).tick = s.tick := rfl
@[simp] theorem State.watch_core : (s.watch p q).core = s.core := rfl
@[simp] theorem State.watch_inputs : (s.watch p q).inputs = s.inputs := rfl
@[simp] theorem State.watch_tick : (s.watch p q).tick = s.tick := rfl
@[simp] theorem State.watch_rx : (s.watch p q).disp.rx = s.disp.rx.observe p q := by
  unfold State.watch; dsimp only; split <;> rfl
theorem State.watch_ram : (s.watch p q).disp.ram = if s.disp.rx.cut p q then [] else s.disp.ram := by
  unfold State.watch; dsimp only; split <;> rfl
theorem State.watch_latched :
    (s.watch p q).disp.latched = if s.disp.rx.cut p q then [] else s.disp.latched := by
  unfold State.watch; dsimp only; split <;> rfl
/-- When no byte is cut, only the receiver moves. -/
theorem State.watch_uncut (h : s.disp.rx.cut p q = false) :
    s.watch p q = { s with disp := { s.disp with rx := s.disp.rx.observe p q } } := by
  simp [watch, h]
theorem State.unlistedByte_core (slot : Slot) : (unlistedByte slot b s).core = s.core := by
  unfold unlistedByte; split <;> rfl
end

end Sys2Proof.Machine
end

