-- ==== Sys2Proof/Laws/Engines.lean ====
section
/-! SUPPORT. One spec lemma per engine operation: the cases of each step, and the fields each engine never writes. -/

namespace Sys2Proof.Machine

/-- The fields of the display serializer and encoder (10_state.md R20, units DSS and ENC) agree. -/
structure Regs.SameSerializer (r t : Regs) : Prop where
  val : t.val = r.val
  digit : t.digit = r.digit
  fb : t.fb = r.fb
  rbusy : t.rbusy = r.rbusy
  rseq : t.rseq = r.rseq
  bitix : t.bitix = r.bitix
  sub : t.sub = r.sub
  hold : t.hold = r.hold
  stb : t.stb = r.stb
  dclk : t.dclk = r.dclk
  dio : t.dio = r.dio
  rdone : t.rdone = r.rdone

/-- The fields of the echo-timing engine (10_state.md R20, unit ETE) agree. -/
structure Regs.SameTimer (r t : Regs) : Prop where
  mph : t.mph = r.mph
  tcnt : t.tcnt = r.tcnt
  wcnt : t.wcnt = r.wcnt
  dcnt : t.dcnt = r.dcnt
  dur : t.dur = r.dur
  dist : t.dist = r.dist
  mdone : t.mdone = r.mdone
  trig : t.trig = r.trig

theorem Regs.SameTimer.refl (r : Regs) : r.SameTimer r := ⟨rfl, rfl, rfl, rfl, rfl, rfl, rfl, rfl⟩

theorem Regs.SameTimer.trans {r s t : Regs} (h : r.SameTimer s) (k : s.SameTimer t) : r.SameTimer t :=
  ⟨k.1.trans h.1, k.2.trans h.2, k.3.trans h.3, k.4.trans h.4, k.5.trans h.5, k.6.trans h.6, k.7.trans h.7,
    k.8.trans h.8⟩

/-! ### The echo-timing engine -/

/-- Every field `start_measure` writes (40_command.md R122). -/
theorem Regs.startMeasure_eq (r : Regs) : r.startMeasure =
    { r with mph := .trigger, trig := true, tcnt := 0, wcnt := 0, dcnt := 0, mdone := false } := rfl

/-- Every field the finishing step writes (41_measure.md R142). -/
theorem Regs.finish_eq (d : BitVec 15) (r : Regs) : r.finish d =
    { r with dcnt := d, dur := d, dist := BitVec.ofNat 16 (d.toNat / 58), mdone := true, mph := .idle } := rfl

/-- Everything a tick of the echo-timing engine can do (41_measure.md R137, R139, R141, R142). -/
theorem Regs.stepMeasure_cases (echo : Bool) (r : Regs) :
    (r.mph = .idle ∧ r.stepMeasure echo = r) ∨
    (r.mph = .trigger ∧ r.tcnt.toNat = 9 ∧
      r.stepMeasure echo = { r with trig := false, tcnt := 0, mph := .waitRise }) ∨
    (r.mph = .trigger ∧ r.tcnt.toNat ≠ 9 ∧ r.stepMeasure echo = { r with tcnt := r.tcnt + 1 }) ∨
    (r.mph = .waitRise ∧ echo = true ∧ r.stepMeasure echo = { r with dcnt := 1, mph := .waitFall }) ∨
    (r.mph = .waitRise ∧ echo = false ∧ r.wcnt.toNat = 999 ∧
      r.stepMeasure echo = { r with wcnt := 1000, mph := .waitFall }) ∨
    (r.mph = .waitRise ∧ echo = false ∧ r.wcnt.toNat ≠ 999 ∧
      r.stepMeasure echo = { r with wcnt := r.wcnt + 1 }) ∨
    (r.mph = .waitFall ∧ echo = false ∧ r.stepMeasure echo = r.finish r.dcnt) ∨
    (r.mph = .waitFall ∧ echo = true ∧ r.dcnt.toNat = 29999 ∧ r.stepMeasure echo = r.finish 30000) ∨
    (r.mph = .waitFall ∧ echo = true ∧ r.dcnt.toNat ≠ 29999 ∧
      r.stepMeasure echo = { r with dcnt := r.dcnt + 1 }) := by
  cases hm : r.mph <;> cases echo <;>
    simp only [stepMeasure, hm, triggerTick, waitRiseTick, waitFallTick, tTrig, nRise, nFall, reduceCtorEq,
      false_and, true_and, false_or, or_false, Bool.not_true, Bool.not_false, Bool.false_eq_true, if_true, if_false]
  case trigger.false => by_cases h : r.tcnt.toNat = 9 <;> simp [h]
  case trigger.true => by_cases h : r.tcnt.toNat = 9 <;> simp [h]
  case waitRise.false => by_cases h : r.wcnt.toNat = 999 <;> simp [h]
  case waitFall.true => by_cases h : r.dcnt.toNat = 29999 <;> simp [h]

/-- "no DSS field is written by any of them" (41_measure.md R136). -/
theorem Regs.stepMeasure_sameSerializer (echo : Bool) (r : Regs) : r.SameSerializer (r.stepMeasure echo) := by
  rcases r.stepMeasure_cases echo with ⟨_, h⟩ | ⟨_, _, h⟩ | ⟨_, _, h⟩ | ⟨_, _, h⟩ | ⟨_, _, _, h⟩ | ⟨_, _, _, h⟩ |
    ⟨_, _, h⟩ | ⟨_, _, _, h⟩ | ⟨_, _, _, h⟩ <;> rw [h] <;> constructor <;> rfl

/-! ### The display serializer -/

section
variable (c : Config) (r : Regs)

/-- `enter` writes no field of the timer, no operand register, not the place in the sequence, not the flags
(43_serialize.md R185, R186). -/
theorem Regs.enter_keeps (op : MicroOp) :
    r.SameTimer (r.enter c op) ∧ (r.enter c op).val = r.val ∧ (r.enter c op).digit = r.digit ∧
      (r.enter c op).fb = r.fb ∧ (r.enter c op).rbusy = r.rbusy ∧ (r.enter c op).rseq = r.rseq ∧
      (r.enter c op).dclk = r.dclk ∧ (r.enter c op).rdone = r.rdone := by
  cases op <;> exact ⟨⟨rfl, rfl, rfl, rfl, rfl, rfl, rfl, rfl⟩, rfl, rfl, rfl, rfl, rfl, rfl, rfl⟩

/-- Every field `start_render` writes (40_command.md R123). -/
theorem Regs.startRender_eq (v : Arg) : r.startRender c v =
    { r with
      val := v, digit := split v.toNat, fb := frame c (split v.toNat), rbusy := true, rdone := false,
      rseq := 0, stb := false, hold := BitVec.ofNat 4 (c.tStb - 1) } := rfl

/-- Everything `next_op` can do (43_serialize.md R190). -/
theorem Regs.nextOp_cases :
    (r.rseq = 15 ∧ r.nextOp c = { r with rdone := true, rbusy := false, rseq := 0 }) ∨
    (r.rseq ≠ 15 ∧ r.nextOp c = ({ r with rseq := r.rseq + 1 } : Regs).enter c (microOp (r.rseq + 1))) := by
  by_cases h : r.rseq = 15
  · exact .inl ⟨h, by simp only [nextOp, if_pos h, setRdone]⟩
  · exact .inr ⟨h, by simp only [nextOp, if_neg h]⟩

/-- `next_op` writes no field of the timer and no operand register, and leaves the clock. -/
theorem Regs.nextOp_keeps :
    r.SameTimer (r.nextOp c) ∧ (r.nextOp c).val = r.val ∧ (r.nextOp c).digit = r.digit ∧
      (r.nextOp c).fb = r.fb ∧ (r.nextOp c).dclk = r.dclk := by
  rcases r.nextOp_cases c with ⟨_, h⟩ | ⟨_, h⟩
  · rw [h]; exact ⟨⟨rfl, rfl, rfl, rfl, rfl, rfl, rfl, rfl⟩, rfl, rfl, rfl, rfl⟩
  · obtain ⟨t, hv, hd, hf, _, _, hk, _⟩ := ({ r with rseq := r.rseq + 1 } : Regs).enter_keeps c (microOp (r.rseq + 1))
    rw [h]
    exact ⟨⟨t.1, t.2, t.3, t.4, t.5, t.6, t.7, t.8⟩, hv, hd, hf, hk⟩

/-- Everything a tick of the serializer can do (43_serialize.md R183, R188). -/
theorem Regs.stepRender_cases :
    (r.hold ≠ 0 ∧ r.stepRender c = { r with hold := r.hold - 1 }) ∨
    (r.hold = 0 ∧ (∀ j, microOp r.rseq ≠ .byte j) ∧ r.stepRender c = r.nextOp c) ∨
    (∃ j, r.hold = 0 ∧ microOp r.rseq = .byte j ∧ r.sub = .setup ∧
      r.stepRender c = ({ r with dclk := true, sub := .high } : Regs).startHold c.tCkh) ∨
    (∃ j, r.hold = 0 ∧ microOp r.rseq = .byte j ∧ r.sub = .high ∧
      r.stepRender c = ({ r with dclk := false, sub := .low } : Regs).startHold c.tCkl) ∨
    (∃ j, r.hold = 0 ∧ microOp r.rseq = .byte j ∧ r.sub = .low ∧ r.bitix = 7 ∧ r.stepRender c = r.nextOp c) ∨
    (∃ j, r.hold = 0 ∧ microOp r.rseq = .byte j ∧ r.sub = .low ∧ r.bitix ≠ 7 ∧
      r.stepRender c =
        ({ r with bitix := r.bitix + 1, sub := .setup, dio := r.fb[j].getLsbD (r.bitix.toNat + 1) } : Regs).startHold
          c.tDsu) := by
  by_cases hh : r.hold = 0
  · cases hop : microOp r.rseq with
    | stb0 => exact .inr (.inl ⟨hh, by simp, by simp [stepRender, hh, hop]⟩)
    | stb1 => exact .inr (.inl ⟨hh, by simp, by simp [stepRender, hh, hop]⟩)
    | byte j =>
      cases hs : r.sub with
      | setup => exact .inr (.inr (.inl ⟨j, hh, rfl, rfl, by simp [stepRender, hh, hop, bitStep, hs]⟩))
      | high => exact .inr (.inr (.inr (.inl ⟨j, hh, rfl, rfl, by simp [stepRender, hh, hop, bitStep, hs]⟩)))
      | low =>
        by_cases hb : r.bitix = 7
        · exact .inr (.inr (.inr (.inr (.inl ⟨j, hh, rfl, rfl, hb, by simp [stepRender, hh, hop, bitStep, hs, hb]⟩))))
        · exact .inr (.inr (.inr (.inr (.inr ⟨j, hh, rfl, rfl, hb, by
            simp only [stepRender, hh, hop, bitStep, hs, if_neg hb, ne_eq, not_true_eq_false, if_false]⟩))))
  · exact .inl ⟨hh, if_pos hh⟩

/-- "no ETE field is written" (43_serialize.md R183), and `VAL`, `DIGIT`, `FB` stay (43_serialize.md R190). -/
theorem Regs.stepRender_keeps :
    r.SameTimer (r.stepRender c) ∧ (r.stepRender c).val = r.val ∧ (r.stepRender c).digit = r.digit ∧
      (r.stepRender c).fb = r.fb := by
  obtain ⟨t, hv, hd, hf, _⟩ := r.nextOp_keeps c
  rcases r.stepRender_cases c with ⟨_, h⟩ | ⟨_, _, h⟩ | ⟨_, _, _, _, h⟩ | ⟨_, _, _, _, h⟩ | ⟨_, _, _, _, _, h⟩ |
    ⟨_, _, _, _, _, h⟩ <;> rw [h]
  · exact ⟨⟨rfl, rfl, rfl, rfl, rfl, rfl, rfl, rfl⟩, rfl, rfl, rfl⟩
  · exact ⟨t, hv, hd, hf⟩
  · exact ⟨⟨rfl, rfl, rfl, rfl, rfl, rfl, rfl, rfl⟩, rfl, rfl, rfl⟩
  · exact ⟨⟨rfl, rfl, rfl, rfl, rfl, rfl, rfl, rfl⟩, rfl, rfl, rfl⟩
  · exact ⟨t, hv, hd, hf⟩
  · exact ⟨⟨rfl, rfl, rfl, rfl, rfl, rfl, rfl, rfl⟩, rfl, rfl, rfl⟩
end

end Sys2Proof.Machine
end

