-- ==== Sys2Proof/Laws/Memory.lean ====
section
/-! SUPPORT. The byte store: read after write, every other address unchanged, and the canonical form is kept. -/

namespace Sys2Proof.Machine

/-- A write is read back at its address and changes no other. -/
theorem Memory.readByte_writeByte (m : Memory) (a : Nat) (b : Byte) (x : Nat) :
    (m.writeByte a b).readByte x = if x = a then some b else m.readByte x := by
  induction m with
  | nil => simp [writeByte, readByte]
  | cons c m ih =>
    obtain ⟨k, y⟩ := c
    simp only [writeByte]
    split
    · simp only [readByte]
    · split
      · subst_vars
        simp only [readByte]
        split <;> rfl
      · simp only [readByte, ih]
        split <;> split <;> simp_all

theorem Memory.readByte_writeByte_same (m : Memory) (a : Nat) (b : Byte) :
    (m.writeByte a b).readByte a = some b := by
  rw [readByte_writeByte, if_pos rfl]

theorem Memory.readByte_writeByte_other (m : Memory) {a x : Nat} (b : Byte) (h : x ≠ a) :
    (m.writeByte a b).readByte x = m.readByte x := by
  rw [readByte_writeByte, if_neg h]

/-- The addresses listed after a write: the old ones and the written one. -/
theorem Memory.mem_addresses_writeByte (m : Memory) (a : Nat) (b : Byte) (x : Nat) :
    x ∈ (m.writeByte a b).map Prod.fst → x = a ∨ x ∈ m.map Prod.fst := by
  induction m with
  | nil => simp [writeByte]
  | cons c m ih =>
    obtain ⟨k, y⟩ := c
    simp only [writeByte]
    split
    · simp
    · split
      · subst_vars; simp
      · simp only [List.map_cons, List.mem_cons]
        rintro (rfl | h)
        · simp
        · rcases ih h with rfl | h <;> simp [*]

/-- A write keeps the canonical form. -/
theorem Memory.wf_writeByte {m : Memory} (h : m.wf) (a : Nat) (b : Byte) : (m.writeByte a b).wf := by
  induction m with
  | nil => simp [writeByte, Memory.wf]
  | cons c m ih =>
    obtain ⟨k, y⟩ := c
    simp only [Memory.wf, List.map_cons, List.pairwise_cons] at h
    simp only [writeByte]
    split
    · rename_i hak
      simp only [Memory.wf, List.map_cons, List.pairwise_cons, List.mem_cons]
      refine ⟨?_, h.1, h.2⟩
      rintro x (rfl | hx)
      · exact hak
      · exact Nat.lt_trans hak (h.1 x hx)
    · split
      · subst_vars
        simpa [Memory.wf, List.pairwise_cons] using h
      · rename_i hak hne
        simp only [Memory.wf, List.map_cons, List.pairwise_cons]
        refine ⟨fun x hx => ?_, ih h.2⟩
        rcases mem_addresses_writeByte m a b x hx with rfl | hx
        · omega
        · exact h.1 x hx

/-- The empty store is canonical: reset's column store. -/
theorem Memory.wf_nil : Memory.wf [] := List.Pairwise.nil

/-- A canonical store reads none below its first address, so equal reads force equal lists. -/
theorem Memory.readByte_none_of_lt {m : Memory} {a : Nat} (h : ∀ k ∈ m.map Prod.fst, a < k) :
    m.readByte a = none := by
  induction m with
  | nil => rfl
  | cons c m ih =>
    obtain ⟨k, y⟩ := c
    simp only [List.map_cons, List.mem_cons, forall_eq_or_imp] at h
    simp only [readByte]
    rw [if_neg (by omega), ih h.2]

/-- Equal memories are equal data: two canonical stores that read alike are the same list. -/
theorem Memory.eq_of_readByte_eq {m n : Memory} (hm : m.wf) (hn : n.wf)
    (h : ∀ a, m.readByte a = n.readByte a) : m = n := by
  induction m generalizing n with
  | nil =>
    cases n with
    | nil => rfl
    | cons c n => have := h c.1; simp [readByte] at this
  | cons c m ih =>
    cases n with
    | nil => have := h c.1; simp [readByte] at this
    | cons d n =>
      obtain ⟨k, x⟩ := c
      obtain ⟨l, y⟩ := d
      simp only [Memory.wf, List.map_cons, List.pairwise_cons] at hm hn
      have hkl : k = l := by
        rcases Nat.lt_trichotomy k l with hlt | heq | hgt
        · have := h k
          simp only [readByte, if_pos] at this
          rw [if_neg (by omega), readByte_none_of_lt fun j hj => Nat.lt_trans hlt (hn.1 j hj)] at this
          simp at this
        · exact heq
        · have := h l
          simp only [readByte, if_pos] at this
          rw [if_neg (by omega), readByte_none_of_lt fun j hj => Nat.lt_trans hgt (hm.1 j hj)] at this
          simp at this
      subst hkl
      have hxy : x = y := by simpa [readByte] using h k
      subst hxy
      rw [ih hm.2 hn.2 fun a => ?_]
      by_cases ha : a = k
      · subst ha
        rw [readByte_none_of_lt hm.1, readByte_none_of_lt hn.1]
      · simpa [readByte, ha] using h a

end Sys2Proof.Machine
end

