-- ==== Sys2Proof/Laws/Wire.lean ====
section
/-! SUPPORT. The display sink: reassembling a byte, what the receiver can do, and that a store keeps the canonical form. -/

namespace Sys2Proof.Machine

/-- The receiver reassembles what least-significant-bit-first sending takes apart (43_serialize.md R187, R196). -/
theorem byteOfBits_bits (b : Byte) : byteOfBits ((List.range 8).map b.getLsbD) = b := by
  revert b; decide

/-- The eighth bit completes the byte. -/
theorem Receiver.completes_eighth (bit : Bool) (rx : Receiver) (bs : List Byte) (h : rx.trans = some bs)
    (n : rx.bits.length = 7) :
    rx.completes bit = some (Slot.ofIndex bs.length, byteOfBits (rx.bits ++ [bit])) := by
  simp [completes, h, n]

/-- Fewer than seven pending bits: a further bit completes nothing. -/
theorem Receiver.completes_none (bit : Bool) (rx : Receiver) (n : rx.bits.length < 7) :
    rx.completes bit = none := by
  unfold completes; split <;> simp [n]

/-- When the clock does not rise, no byte arrives. -/
theorem Receiver.received_none_of_clock (p q : Pins) (rx : Receiver) (h : q.dclk = false ∨ p.dclk = true) :
    rx.received p q = none := by
  rcases h with h | h <;> simp [received, sampled, h]

/-- When no display pin moves, the receiver stays as it is. -/
theorem Receiver.observe_same (p : Pins) (rx : Receiver) : rx.observe p p = rx := by
  simp [observe, openOn, closeOn, sampled]

/-- When no display pin moves, nothing is cut. -/
theorem Receiver.cut_same (p : Pins) (rx : Receiver) : rx.cut p p = false := by
  simp [cut]

/-- When no display pin moves, nothing is committed. -/
theorem Receiver.committed_same (p : Pins) (rx : Receiver) : rx.committed p p = none := by
  simp [committed]

/-- Only the strobe's rise commits (20_memory.md R75). -/
theorem Receiver.committed_none (p q : Pins) (rx : Receiver) (h : p.stb = true ∨ q.stb = false) :
    rx.committed p q = none := by
  rcases h with h | h <;> simp [committed, h]

/-- Bits are taken with the strobe low only, so no tick both completes a byte and commits a transaction. -/
theorem Receiver.received_none_of_rise (p q : Pins) (rx : Receiver) (h : q.stb = true) : rx.received p q = none := by
  simp [received, sampled, h]

/-- When no display pin moves, the display sink stays as it is. -/
theorem State.watch_same (p : Pins) (s : State) : s.watch p p = s := by
  simp [State.watch, Receiver.observe_same, Receiver.cut_same]

/-- A tick that moves no display pin delivers nothing. -/
theorem deliver_same (p : Pins) (s : State) (h : s.core.pins = p) : deliver p s = .next s := by
  subst h
  simp [deliver, Receiver.received, sampled, State.watch_same, Receiver.committed_same]

/-- Storing a data byte keeps the canonical form of the column stores. -/
theorem Display.wf_storeData {d : Display} (h : d.wf) (n : Nat) (b : Byte) : (d.storeData n b).wf :=
  ⟨Memory.wf_writeByte h.1 _ _, h.2⟩

/-- Losing the device's state leaves canonical stores. -/
theorem Display.wf_lose (d : Display) (n : Nat) : (d.lose n).wf := ⟨Memory.wf_nil, Memory.wf_nil⟩

/-- Latching keeps the canonical form. -/
theorem State.wf_latch {s : State} (h : s.disp.wf) : s.latch.disp.wf := ⟨h.1, h.1⟩

/-- The sink's look at the pins keeps the canonical form. -/
theorem State.wf_watch {s : State} (h : s.disp.wf) (p q : Pins) : (s.watch p q).disp.wf := by
  unfold State.watch
  dsimp only
  split
  · exact Display.wf_lose _ _
  · exact h

end Sys2Proof.Machine
end

