-- ==== Sys2Proof/Laws/Exec.lean ====
section
/-! SUPPORT. What `exec`, `deliver` and the branches of a tick can do, said once. -/

namespace Sys2Proof.Machine

@[simp] theorem andThen_next (s : State) (f : State → Answer) : andThen (.next s) f = f s := rfl

/-- Everything a wire byte can do: the display sink changes, its receiver and what is latched do not, nothing else
changes, and the column stores stay canonical. -/
theorem exec_bus (i : Instr) (slot : Slot) (hs : slot ≠ .port) (hi : i.wellFormed slot = true) (s : State) :
    ∃ d : Display, exec i s = .next { s with disp := d } ∧ d.rx = s.disp.rx ∧ d.latched = s.disp.latched ∧
      (s.disp.wf → d.wf) := by
  cases i <;> simp only [Instr.wellFormed, decide_eq_true_eq] at hi
  case nop | measure | render | rsvd3 => exact absurd hi hs
  case cmdData | cmdAddr | cmdDisp => exact ⟨_, rfl, rfl, rfl, id⟩
  all_goals exact ⟨_, rfl, rfl, rfl, fun h => Display.wf_storeData h _ _⟩

/-- Everything a command word can do: only CORE's fields change, the clock does not, and the strobe does not rise. -/
theorem exec_port (i : Instr) (hi : i.wellFormed .port = true) (s : State) :
    ∃ r : Regs, exec i s = .next { s with core := r } ∧ r.dclk = s.core.dclk ∧
      (s.core.stb = true ∨ r.stb = false) := by
  cases i <;> simp only [Instr.wellFormed, decide_eq_true_eq, reduceCtorEq, decide_false, Bool.false_eq_true] at hi
  case nop | rsvd3 => exact ⟨s.core, rfl, rfl, by cases s.core.stb <;> simp⟩
  case measure => exact ⟨_, rfl, rfl, by simp only [Regs.startMeasure_eq]; cases s.core.stb <;> simp⟩
  case render => exact ⟨_, rfl, rfl, .inr rfl⟩

/-- The host side's decoder gives command words only. -/
theorem decodeCW_wellFormed (w : CmdWord) : (decodeCW w).wellFormed .port = true := by
  unfold decodeCW
  dsimp only
  split
  · rfl
  · split
    · rfl
    · split <;> rfl

/-- Whatever row a lookup finds is in the table. -/
theorem lookupRow_mem {b : Byte} {i : Instr} {rows : List (Byte × Instr)} (h : lookupRow b rows = some i) :
    (b, i) ∈ rows := by
  induction rows with
  | nil => simp [lookupRow] at h
  | cons c rows ih =>
    obtain ⟨m, k⟩ := c
    simp only [lookupRow] at h
    split at h
    · simp_all
    · exact List.mem_cons_of_mem _ (ih h)

/-- The display sink's decoder gives an instruction that may stand in the slot. -/
theorem decodeBus_wellFormed {slot : Slot} {b : Byte} {i : Instr} (h : decodeBus slot b = .ok i) :
    slot ≠ .port ∧ i.wellFormed slot = true := by
  cases slot with
  | port => simp [decodeBus] at h
  | first =>
    refine ⟨by simp, ?_⟩
    cases hl : lookupRow b commandRows with
    | none => simp [decodeBus, hl] at h
    | some k =>
      simp only [decodeBus, hl, Option.elim, Except.ok.injEq] at h
      subst h
      have hm := lookupRow_mem hl
      simp only [commandRows, List.mem_cons, Prod.mk.injEq, List.not_mem_nil, or_false] at hm
      rcases hm with ⟨_, rfl⟩ | ⟨_, rfl⟩ | ⟨_, rfl⟩ <;> rfl
  | pattern =>
    refine ⟨by simp, ?_⟩
    cases hl : lookupRow b patternRows with
    | none => simp [decodeBus, hl] at h
    | some k =>
      simp only [decodeBus, hl, Option.elim, Except.ok.injEq] at h
      subst h
      have hm := lookupRow_mem hl
      simp only [patternRows, List.mem_cons, Prod.mk.injEq, List.not_mem_nil, or_false] at hm
      rcases hm with ⟨_, rfl⟩ | ⟨_, rfl⟩ | ⟨_, rfl⟩ | ⟨_, rfl⟩ | ⟨_, rfl⟩ | ⟨_, rfl⟩ | ⟨_, rfl⟩ | ⟨_, rfl⟩ |
        ⟨_, rfl⟩ | ⟨_, rfl⟩ | ⟨_, rfl⟩ <;> rfl
  | dummy =>
    refine ⟨by simp, ?_⟩
    simp only [decodeBus] at h
    split at h
    · cases h; rfl
    · cases h

/-- A row that waits for the strobe writes neither the address nor the columns. -/
theorem exec_waiting (i : Instr) (hi : waitsForStrobe i = true) (s : State) :
    ∃ d : Display, exec i s = .next { s with disp := d } ∧ d.rx = s.disp.rx ∧ d.addr = s.disp.addr ∧
      d.ram = s.disp.ram ∧ d.latched = s.disp.latched := by
  cases i <;> simp only [waitsForStrobe, Bool.false_eq_true] at hi
  · exact ⟨_, rfl, rfl, rfl, rfl, rfl⟩
  · exact ⟨_, rfl, rfl, rfl, rfl, rfl⟩

/-- A wire byte that does not wait writes neither the write mode nor the display control. -/
theorem exec_arriving (i : Instr) (slot : Slot) (hs : slot ≠ .port) (hi : i.wellFormed slot = true)
    (hw : waitsForStrobe i = false) (s : State) :
    ∃ d : Display, exec i s = .next { s with disp := d } ∧ d.rx = s.disp.rx ∧ d.autoInc = s.disp.autoInc ∧
      d.on = s.disp.on ∧ d.level = s.disp.level ∧ d.latched = s.disp.latched ∧ (s.disp.wf → d.wf) := by
  cases i <;> simp only [waitsForStrobe, Instr.wellFormed, decide_eq_true_eq, Bool.true_eq_false] at hw hi
  case nop | measure | render | rsvd3 => exact absurd hi hs
  case cmdAddr => exact ⟨_, rfl, rfl, rfl, rfl, rfl, rfl, id⟩
  all_goals exact ⟨_, rfl, rfl, rfl, rfl, rfl, rfl, fun h => Display.wf_storeData h _ _⟩

/-- Everything an arriving byte can do, in the table or not: commands wait (20_memory.md R75). -/
theorem arrive_cases (slot : Slot) (b : Byte) (s : State) :
    ∃ d : Display, arrive slot b s = .next { s with disp := d } ∧ d.rx = s.disp.rx ∧ d.autoInc = s.disp.autoInc ∧
      d.on = s.disp.on ∧ d.level = s.disp.level ∧ d.latched = s.disp.latched ∧ (s.disp.wf → d.wf) := by
  unfold arrive
  cases h : decode slot (.bus8 b) with
  | ok i =>
    obtain ⟨hs, hi⟩ := decodeBus_wellFormed (show decodeBus slot b = .ok i from h)
    dsimp only
    cases hw : waitsForStrobe i with
    | true => exact ⟨s.disp, rfl, rfl, rfl, rfl, rfl, rfl, id⟩
    | false => exact exec_arriving i slot hs hi hw s
  | error e =>
    simp only [unlistedByte]
    split
    · exact ⟨s.disp, rfl, rfl, rfl, rfl, rfl, rfl, id⟩
    · exact ⟨_, rfl, rfl, rfl, rfl, rfl, rfl, fun hw => Display.wf_storeData hw _ _⟩

/-- Everything a commit can do: only the device changes. -/
theorem commit_cases (bs : List Byte) (s : State) :
    ∃ d : Display, commit bs s = .next { s with disp := d } ∧ d.rx = s.disp.rx ∧ (s.disp.wf → d.wf) := by
  cases bs with
  | nil => exact ⟨s.disp, rfl, rfl, id⟩
  | cons b data =>
    simp only [commit]
    have kept : ∃ k : Display, (if data.isEmpty then s else s.latch) = { s with disp := k } ∧ k.rx = s.disp.rx ∧
        (s.disp.wf → k.wf) := by
      split
      · exact ⟨s.disp, rfl, rfl, id⟩
      · exact ⟨_, rfl, rfl, State.wf_latch⟩
    obtain ⟨k, hk, hr, hw⟩ := kept
    rw [hk]
    cases h : decode .first (.bus8 b) with
    | error e => exact ⟨_, rfl, rfl, fun _ => Display.wf_lose _ _⟩
    | ok i =>
      dsimp only
      split
      · obtain ⟨hs, hi⟩ := decodeBus_wellFormed (show decodeBus .first b = .ok i from h)
        obtain ⟨d, e, er, _, ew⟩ := exec_bus i .first hs hi { s with disp := k }
        exact ⟨d, e, er.trans hr, fun h => ew (hw h)⟩
      · exact ⟨k, rfl, hr, hw⟩

/-- A commit after a command byte of the table, field by field (20_memory.md R75). -/
theorem commit_listed (b : Byte) (data : List Byte) (s : State) (h : b = 0x40 ∨ b = 0xC0 ∨ b = 0x8F) :
    commit (b :: data) s = .next { s with disp := { s.disp with
      autoInc := s.disp.autoInc || decide (b = 0x40)
      on := s.disp.on || decide (b = 0x8F)
      level := if b = 0x8F then 7 else s.disp.level
      latched := if data = [] then s.disp.latched else s.disp.ram } } := by
  rcases h with rfl | rfl | rfl <;> cases data <;> simp [commit, decode, decodeBus, lookupRow, commandRows,
    waitsForStrobe, exec, execCmdData, execCmdDisp, hardware, State.latch]

/-- Everything the display sink's look at the pins can do: only the sink changes; its receiver has observed the pins. -/
theorem deliver_cases (p : Pins) (s : State) :
    ∃ d : Display, deliver p s = .next { s with disp := d } ∧ d.rx = s.disp.rx.observe p s.core.pins ∧
      (s.disp.wf → d.wf) := by
  unfold deliver
  cases s.disp.rx.received p s.core.pins with
  | some sb =>
    obtain ⟨slot, b⟩ := sb
    obtain ⟨d, h, hr, _, _, _, _, hm⟩ := arrive_cases slot b (s.watch p s.core.pins)
    exact ⟨d, h, hr.trans (State.watch_rx ..), fun hs => hm (State.wf_watch hs ..)⟩
  | none =>
    cases s.disp.rx.committed p s.core.pins with
    | some bs =>
      obtain ⟨d, h, hr, hm⟩ := commit_cases bs (s.watch p s.core.pins)
      exact ⟨d, h, hr.trans (State.watch_rx ..), fun hs => hm (State.wf_watch hs ..)⟩
    | none => exact ⟨(s.watch p s.core.pins).disp, rfl, State.watch_rx .., fun hs => State.wf_watch hs ..⟩

/-- Without a rise of the strobe the device's mode, control and latched columns stay (20_memory.md R75). -/
theorem deliver_keeps (p : Pins) (s : State) (h : p.stb = true ∨ s.core.pins.stb = false) :
    ∃ d : Display, deliver p s = .next { s with disp := d } ∧ d.autoInc = s.disp.autoInc ∧ d.on = s.disp.on ∧
      d.level = s.disp.level ∧ d.latched = s.disp.latched := by
  have hc : s.disp.rx.cut p s.core.pins = false := by
    rcases h with h | h
    · simp [Receiver.cut, h]
    · rw [Regs.pins_stb] at h
      simp [Receiver.cut, h]
  unfold deliver
  rw [Receiver.committed_none _ _ _ h, State.watch_uncut _ _ _ hc]
  cases s.disp.rx.received p s.core.pins with
  | none => exact ⟨_, rfl, rfl, rfl, rfl, rfl⟩
  | some sb =>
    obtain ⟨slot, b⟩ := sb
    obtain ⟨d, e, _, h1, h2, h3, h4, _⟩ :=
      arrive_cases slot b { s with disp := { s.disp with rx := s.disp.rx.observe p s.core.pins } }
    exact ⟨d, e, h1, h2, h3, h4⟩

end Sys2Proof.Machine
end

