-- ==== Sys2Proof/Laws/Invariants.lean ====
section
/-! SUPPORT. The invariants of the two engines, operation by operation: each is kept by the other engine, by its own
start and by each of its own moves. -/

namespace Sys2Proof.Machine

/-- A move that keeps the serializer's fields keeps its invariant. -/
theorem Regs.SerializerInv.of_same {r t : Regs} (k : r.SameSerializer t) (h : r.SerializerInv) : t.SerializerInv := by
  obtain ⟨h1, h2, h3, h4, h5, h6, h7, h8⟩ := h
  obtain ⟨k1, k2, k3, k4, k5, k6, k7, k8, k9, k10, k11, k12⟩ := k
  unfold FrameLoaded NoFrameYet at h3
  constructor
  all_goals simp only [FrameLoaded, NoFrameYet, k1, k2, k3, k4, k5, k6, k7, k8, k9, k10, k11, k12]; assumption

/-- A move that keeps the timer's fields keeps its invariant. -/
theorem Regs.TimerInv.of_same {r t : Regs} (k : r.SameTimer t) (h : r.TimerInv) : t.TimerInv := by
  obtain ⟨k1, k2, k3, k4, k5, k6, k7, k8⟩ := k
  obtain ⟨h1, h2, h3, h4, h5, h6, h7, h8, h9, h10, h11, h12⟩ := h
  constructor <;> simp only [k1, k2, k3, k4, k5, k6, k7, k8] <;> assumption

/-- A loaded frame stays loaded while `VAL`, `DIGIT` and `FB` stay. -/
theorem Regs.FrameLoaded.of_same {r t : Regs} (h : r.FrameLoaded) (hv : t.val = r.val) (hd : t.digit = r.digit)
    (hf : t.fb = r.fb) : t.FrameLoaded := by
  unfold FrameLoaded; rw [hv, hd, hf]; exact h

/-- While a frame runs it is loaded. -/
theorem Regs.SerializerInv.loaded {r : Regs} (h : r.SerializerInv) (hb : r.rbusy = true) : r.FrameLoaded :=
  h.frameRegs.resolve_right fun hn => by simp [hn.2.2.2.1] at hb

/-- Outside the HIGH part of a bit the clock is low. -/
theorem Regs.SerializerInv.clockLow {r : Regs} (h : r.SerializerInv) (hb : r.rbusy = true)
    (hl : (∀ j, microOp r.rseq ≠ .byte j) ∨ r.sub ≠ .high) : r.dclk = false := by
  by_contra hc
  obtain ⟨a, b⟩ := (h.clockIff hb).1 (by simpa using hc)
  refine hl.elim (fun hl => ?_) (fun hl => hl b)
  cases hop : microOp r.rseq with
  | stb0 => simp [hop, MicroOp.sends] at a
  | stb1 => simp [hop, MicroOp.sends] at a
  | byte j => exact hl j hop

/-- A byte is sent only after a micro-op that leaves the strobe low (43_serialize.md R181). -/
theorem microOp_before_byte (q : BitVec 4) : (∃ j, microOp (q + 1) = .byte j) → (microOp q).strobe = false := by
  revert q; decide

/-! ### The timer's own moves -/

theorem Regs.TimerInv.startMeasure {r : Regs} (h : r.TimerInv) : r.startMeasure.TimerInv := by
  obtain ⟨h1, h2, h3, h4, h5, h6, h7, h8, h9, h10, h11, h12⟩ := h
  rw [startMeasure_eq]
  constructor <;> simp_all

theorem Regs.TimerInv.finish {r : Regs} (h : r.TimerInv) (hm : r.mph = .waitFall) (d : BitVec 15)
    (hd : d.toNat ≤ 30000) : (r.finish d).TimerInv := by
  obtain ⟨h1, h2, h3, h4, h5, h6, h7, h8, h9, h10, h11, h12⟩ := h
  rw [finish_eq]
  constructor <;> simp_all
  · omega
  · omega

/-! ### The serializer's own moves, at this hardware's hold times -/

/-- A frame starts with the serializer's invariant, whatever came before, if the clock is low. -/
theorem Regs.startRender_serializerInv (r : Regs) (hk : r.dclk = false) (v : Arg) :
    (r.startRender hardware v).SerializerInv := by
  have fr : (r.startRender hardware v).FrameLoaded := ⟨rfl, rfl⟩
  rw [startRender_eq] at fr ⊢
  constructor <;>
    simp_all [microOp, frameSequence, MicroOp.strobe, MicroOp.sends, MicroOp.longestHold, hardware]

theorem Regs.SerializerInv.nextOp {r : Regs} (h : r.SerializerInv) (hb : r.rbusy = true) (hh : r.hold = 0)
    (hk : r.dclk = false) : (r.nextOp hardware).SerializerInv := by
  have fr : (r.nextOp hardware).FrameLoaded :=
    have k := r.nextOp_keeps hardware
    (h.loaded hb).of_same k.2.1 k.2.2.1 k.2.2.2.1
  obtain ⟨h1, h2, h3, h4, h5, h6, h7, h8⟩ := h
  rcases r.nextOp_cases hardware with ⟨ha, hx⟩ | ⟨ha, hx⟩ <;> rw [hx] at fr ⊢
  · have st : (microOp 15).strobe = true := rfl
    constructor <;> simp_all
  · cases hop : microOp (r.rseq + 1) with
    | stb0 | stb1 =>
      rw [hop] at fr
      simp only [enter] at fr ⊢
      constructor <;> simp_all [MicroOp.strobe, MicroOp.sends, MicroOp.longestHold, hardware]
    | byte j =>
      have hst : r.stb = false := by rw [h5 hb]; exact microOp_before_byte _ ⟨j, hop⟩
      rw [hop] at fr
      simp only [enter] at fr ⊢
      constructor <;> simp_all [MicroOp.strobe, MicroOp.sends, MicroOp.longestHold, hardware]

/-! ### Where a frame stands -/

/-- Tick of the frame in which micro-op `q` ends, one more than its last (43_serialize.md R184, R187, R193). -/
theorem entryTick_succ (q : BitVec 4) (h : q ≠ 15) :
    entryTick[(q + 1).toNat]'(q + 1).isLt =
      entryTick[q.toNat]'q.isLt + if (microOp q).sends then 96 else 10 := by
  revert q; decide

/-- Every micro-op ends within the frame. -/
theorem entryTick_le (q : BitVec 4) :
    (entryTick[q.toNat]'q.isLt + if (microOp q).sends then 96 else 10) ≤ 1020 := by
  revert q; decide

/-- On entering a micro-op none of its ticks has gone by. -/
theorem Regs.opTick_enter (r : Regs) (op : MicroOp) (h : microOp r.rseq = op) :
    (r.enter hardware op).opTick = 0 := by
  subst h
  unfold opTick
  rw [(r.enter_keeps hardware _).2.2.2.2.2.1]
  cases microOp r.rseq <;> rfl

/-- Moving on from the last tick of a micro-op moves one tick on in the frame, or ends it. -/
theorem Regs.frameTick_nextOp {r : Regs} (hb : r.rbusy = true)
    (hl : r.opTick + 1 = if (microOp r.rseq).sends then 96 else 10) :
    (r.frameTick = 1019 ∧ (r.nextOp hardware).rbusy = false ∧ (r.nextOp hardware).rdone = true) ∨
    (r.frameTick < 1019 ∧ (r.nextOp hardware).rbusy = true ∧
      (r.nextOp hardware).frameTick = r.frameTick + 1) := by
  rcases r.nextOp_cases hardware with ⟨h15, h⟩ | ⟨hne, h⟩ <;> rw [h]
  · refine .inl ⟨?_, rfl, rfl⟩
    have hs : (microOp 15).sends = false := rfl
    simp only [h15, hs] at hl
    unfold frameTick
    simp only [h15]
    show 1010 + r.opTick = 1019
    simp at hl
    omega
  · have keep := ({ r with rseq := r.rseq + 1 } : Regs).enter_keeps hardware (microOp (r.rseq + 1))
    have he := entryTick_succ r.rseq hne
    have hle := entryTick_le (r.rseq + 1)
    have hft : (({ r with rseq := r.rseq + 1 } : Regs).enter hardware (microOp (r.rseq + 1))).frameTick =
        entryTick[(r.rseq + 1).toNat]'(r.rseq + 1).isLt := by
      unfold frameTick
      rw [opTick_enter ({ r with rseq := r.rseq + 1 } : Regs) (microOp (r.rseq + 1)) rfl]
      simp only [keep.2.2.2.2.2.1, Nat.add_zero]
    refine .inr ⟨?_, keep.2.2.2.2.1.trans hb, ?_⟩
    · unfold frameTick
      have : 0 < if (microOp (r.rseq + 1)).sends then 96 else 10 := by split <;> omega
      omega
    · rw [hft, he]
      unfold frameTick
      omega

/-- `HOLD` never exceeds the hold in progress: all that the schedule needs of a state. -/
abbrev Regs.HoldOk (r : Regs) : Prop := r.hold.toNat ≤ (microOp r.rseq).longestHold r.sub

theorem Regs.holdOk_enter (r : Regs) (op : MicroOp) (h : microOp r.rseq = op) : (r.enter hardware op).HoldOk := by
  subst h
  unfold HoldOk
  rw [(r.enter_keeps hardware _).2.2.2.2.2.1]
  cases microOp r.rseq <;> simp [enter, MicroOp.longestHold, hardware]

theorem Regs.holdOk_stepRender {r : Regs} (h : r.HoldOk) (hb : (r.stepRender hardware).rbusy = true) :
    (r.stepRender hardware).HoldOk := by
  have next : (r.nextOp hardware).rbusy = true → (r.nextOp hardware).HoldOk := by
    rcases r.nextOp_cases hardware with ⟨_, hx⟩ | ⟨_, hx⟩ <;> rw [hx]
    · simp
    · exact fun _ => holdOk_enter _ _ rfl
  rcases r.stepRender_cases hardware with ⟨a, hx⟩ | ⟨a, hj, hx⟩ | ⟨j, a, hj, hs, hx⟩ | ⟨j, a, hj, hs, hx⟩ |
    ⟨j, a, hj, hs, hi, hx⟩ | ⟨j, a, hj, hs, hi, hx⟩ <;> rw [hx] at hb ⊢
  · have hn : (r.hold - 1).toNat ≤ r.hold.toNat := by
      have : r.hold.toNat ≠ 0 := fun hz => a (BitVec.eq_of_toNat_eq (by simpa using hz))
      have := r.hold.isLt
      rw [BitVec.toNat_sub]; simp; omega
    exact hn.trans h
  · exact next hb
  · simp [HoldOk, hj, MicroOp.longestHold, hardware]
  · simp [HoldOk, hj, MicroOp.longestHold, hardware]
  · exact next hb
  · simp [HoldOk, hj, MicroOp.longestHold, hardware]

/-- One tick of the serializer is one tick of the frame; after tick 1019 the frame is over (43_serialize.md R192,
R193). -/
theorem Regs.frameTick_stepRender {r : Regs} (hold : r.HoldOk) (hb : r.rbusy = true) :
    (r.frameTick = 1019 ∧ (r.stepRender hardware).rbusy = false ∧ (r.stepRender hardware).rdone = true) ∨
    (r.frameTick < 1019 ∧ (r.stepRender hardware).rbusy = true ∧
      (r.stepRender hardware).frameTick = r.frameTick + 1) := by
  have hle := entryTick_le r.rseq
  unfold HoldOk at hold
  have hbit := r.bitix.isLt
  rcases r.stepRender_cases hardware with ⟨a, hx⟩ | ⟨a, hj, hx⟩ | ⟨j, a, hj, hs, hx⟩ | ⟨j, a, hj, hs, hx⟩ |
    ⟨j, a, hj, hs, hi, hx⟩ | ⟨j, a, hj, hs, hi, hx⟩ <;> rw [hx]
  · have hn : (r.hold - 1).toNat + 1 = r.hold.toNat := by
      have : r.hold.toNat ≠ 0 := fun hz => a (BitVec.eq_of_toNat_eq (by simpa using hz))
      have := r.hold.isLt
      rw [BitVec.toNat_sub]; simp; omega
    refine .inr ⟨?_, hb, ?_⟩ <;> revert hle hold <;> unfold frameTick opTick <;>
      cases hop : microOp r.rseq <;> cases hsub : r.sub <;>
      simp only [MicroOp.sends, MicroOp.longestHold, if_true, Bool.false_eq_true, if_false] <;> omega
  · refine frameTick_nextOp hb ?_
    unfold opTick
    cases hop : microOp r.rseq with
    | stb0 | stb1 => simp [a, MicroOp.sends]
    | byte j => exact absurd hop (hj j)
  · refine .inr ⟨?_, hb, ?_⟩ <;> revert hle <;> unfold frameTick opTick <;>
      simp only [startHold_rseq, startHold_bitix, startHold_sub, startHold_hold, hj, hs, a, MicroOp.sends, if_true]
    · simp; omega
    · intro _; simp [hardware]; omega
  · refine .inr ⟨?_, hb, ?_⟩ <;> revert hle <;> unfold frameTick opTick <;>
      simp only [startHold_rseq, startHold_bitix, startHold_sub, startHold_hold, hj, hs, a, MicroOp.sends, if_true]
    · simp; omega
    · intro _; simp [hardware]; omega
  · refine frameTick_nextOp hb ?_
    unfold opTick
    simp [hj, hs, a, hi, MicroOp.sends]
  · have hn : (r.bitix + 1).toNat = r.bitix.toNat + 1 := by
      have : r.bitix.toNat ≠ 7 := fun hz => hi (BitVec.eq_of_toNat_eq (by simpa using hz))
      rw [BitVec.toNat_add]; simp; omega
    have : r.bitix.toNat ≠ 7 := fun hz => hi (BitVec.eq_of_toNat_eq (by simpa using hz))
    refine .inr ⟨?_, hb, ?_⟩ <;> revert hle <;> unfold frameTick opTick <;>
      simp only [startHold_rseq, startHold_bitix, startHold_sub, startHold_hold, hj, hs, a, hn, MicroOp.sends, if_true]
    · simp; omega
    · intro _; simp [hardware]; omega

end Sys2Proof.Machine
end

