-- ==== Sys2Proof/Laws/PerInstr.lean ====
section
/-! SUPPORT. The family HasOnePlace: every instruction has exactly one slot it may stand in (30_encoding.md R103). -/

namespace Sys2Proof.Laws.HasOnePlace

/-- There is one slot `i` may stand in, and no other. -/
def Statement (i : Instr) : Prop :=
  ∃ slot, i.wellFormed slot = true ∧ ∀ other, i.wellFormed other = true → other = slot

/-- An instruction whose check compares the slot with one place has that place alone. -/
theorem of_place {i : Instr} (slot : Slot) (h : ∀ other, i.wellFormed other = decide (other = slot)) : Statement i :=
  ⟨slot, by simp [h], fun other ho => by simpa [h] using ho⟩

theorem nop (arg : Arg) : Statement (.nop arg) := of_place .port fun _ => rfl
theorem measure (arg : Arg) : Statement (.measure arg) := of_place .port fun _ => rfl
theorem render (arg : Arg) : Statement (.render arg) := of_place .port fun _ => rfl
theorem rsvd3 (arg : Arg) : Statement (.rsvd3 arg) := of_place .port fun _ => rfl
theorem cmdData : Statement .cmdData := of_place .first fun _ => rfl
theorem cmdAddr : Statement .cmdAddr := of_place .first fun _ => rfl
theorem cmdDisp : Statement .cmdDisp := of_place .first fun _ => rfl
theorem dummy : Statement .dummy := of_place .dummy fun _ => rfl
theorem seg0 : Statement .seg0 := of_place .pattern fun _ => rfl
theorem seg1 : Statement .seg1 := of_place .pattern fun _ => rfl
theorem seg2 : Statement .seg2 := of_place .pattern fun _ => rfl
theorem seg3 : Statement .seg3 := of_place .pattern fun _ => rfl
theorem seg4 : Statement .seg4 := of_place .pattern fun _ => rfl
theorem seg5 : Statement .seg5 := of_place .pattern fun _ => rfl
theorem seg6 : Statement .seg6 := of_place .pattern fun _ => rfl
theorem seg7 : Statement .seg7 := of_place .pattern fun _ => rfl
theorem seg8 : Statement .seg8 := of_place .pattern fun _ => rfl
theorem seg9 : Statement .seg9 := of_place .pattern fun _ => rfl
theorem segBlank : Statement .segBlank := of_place .pattern fun _ => rfl

end Sys2Proof.Laws.HasOnePlace
end

