-- ==== Sys2Proof/Tests/Slice0.lean ====
section
/-! SUPPORT. The model's own tests: well-formedness, decoding of written-out words, one step each on small states, and
a witness for the hypotheses of every obligation that has some. Expected results come from 95_test_vectors.md and
from the rules named; none is the model's own answer. -/

namespace Sys2Proof.Tests

open Sys2Proof Sys2Proof.Machine

/-! ### Well-formedness refuses -/

theorem test_wf_refuses_command_word_on_bus : Instr.wellFormed .first (.measure 0) = false := by decide
theorem test_wf_refuses_command_byte_at_port : Instr.wellFormed .port .cmdData = false := by decide
theorem test_wf_refuses_command_byte_as_data : Instr.wellFormed .pattern .cmdAddr = false := by decide
theorem test_wf_refuses_dummy_at_even_offset : Instr.wellFormed .pattern .dummy = false := by decide
theorem test_wf_refuses_pattern_at_odd_offset : Instr.wellFormed .dummy .seg0 = false := by decide
theorem test_wf_refuses_pattern_first : Instr.wellFormed .first .segBlank = false := by decide
theorem test_wf_refuses_render_above_65535 : (HostLine.render 65536).wellFormed = false := by decide
theorem test_wf_refuses_word_above_18_bits : (HostLine.word 0x40000).wellFormed = false := by decide
theorem test_wf_refuses_reset_for_no_tick : (HostLine.reset 0).wellFormed = false := by decide

/-! ### Decoding: words written out from 30_encoding.md R90, R92, R99 and 42_digits.md R165, R166 -/

theorem test_decode_nop : decode .port (.cw 0b00_0000111111110000#18) = .ok (.nop 0x0FF0) := by decide
theorem test_decode_measure : decode .port (.cw 0b01_1111111111111111#18) = .ok (.measure 0xFFFF) := by decide
theorem test_decode_render : decode .port (.cw 0b10_0010011100001111#18) = .ok (.render 9999) := by decide
theorem test_decode_rsvd3 : decode .port (.cw 0b11_0000000000000001#18) = .ok (.rsvd3 1) := by decide
theorem test_decode_cmd_data : decode .first (.bus8 0b0100_0000#8) = .ok .cmdData := by decide
theorem test_decode_cmd_addr : decode .first (.bus8 0b1100_0000#8) = .ok .cmdAddr := by decide
theorem test_decode_cmd_disp : decode .first (.bus8 0b1000_1111#8) = .ok .cmdDisp := by decide
theorem test_decode_dummy : decode .dummy (.bus8 0b0000_0000#8) = .ok .dummy := by decide
theorem test_decode_seg0 : decode .pattern (.bus8 0b0011_1111#8) = .ok .seg0 := by decide
theorem test_decode_seg1 : decode .pattern (.bus8 0b0000_0110#8) = .ok .seg1 := by decide
theorem test_decode_seg2 : decode .pattern (.bus8 0b0101_1011#8) = .ok .seg2 := by decide
theorem test_decode_seg3 : decode .pattern (.bus8 0b0100_1111#8) = .ok .seg3 := by decide
theorem test_decode_seg4 : decode .pattern (.bus8 0b0110_0110#8) = .ok .seg4 := by decide
theorem test_decode_seg5 : decode .pattern (.bus8 0b0110_1101#8) = .ok .seg5 := by decide
theorem test_decode_seg6 : decode .pattern (.bus8 0b0111_1101#8) = .ok .seg6 := by decide
theorem test_decode_seg7 : decode .pattern (.bus8 0b0000_0111#8) = .ok .seg7 := by decide
theorem test_decode_seg8 : decode .pattern (.bus8 0b0111_1111#8) = .ok .seg8 := by decide
theorem test_decode_seg9 : decode .pattern (.bus8 0b0110_1111#8) = .ok .seg9 := by decide
theorem test_decode_seg_blank : decode .pattern (.bus8 0b0000_0000#8) = .ok .segBlank := by decide

theorem test_decode_refuses_unlisted_command_byte : decode .first (.bus8 0x41) = .error .noCommandByte := by decide
theorem test_decode_refuses_unlisted_pattern : decode .pattern (.bus8 0x40) = .error .noPattern := by decide
theorem test_decode_refuses_nonzero_dummy : decode .dummy (.bus8 0x3F) = .error .noDummy := by decide
theorem test_decode_refuses_byte_at_port : decode .port (.bus8 0x40) = .error .busByteAtPort := by decide
theorem test_decode_refuses_command_word_on_bus :
    decode .first (.cw 0x10000) = .error .commandWordOnBus := by decide

/-- A table word wider than its format is refused; 0x00 alone reads SEG_BLANK (log 6, log 12). -/
theorem test_decode_table_words :
    decodeTableWord 18 0x2002A = some (.render 42) ∧ decodeTableWord 24 0x30000 = some (.rsvd3 0) ∧
    decodeTableWord 18 0x40000 = none ∧ decodeTableWord 8 0xC0 = some .cmdAddr ∧
    decodeTableWord 8 0x00 = some .segBlank ∧ decodeTableWord 8 0x41 = none := by decide

/-! ### Small states and what a test reads of an answer -/

/-- The CORE of a next state. -/
def coreOf : Answer → Option Regs
  | .next s => some s.core
  | .fault _ => none
  | .refused _ => none

/-- The display sink of a next state. -/
def dispOf : Answer → Option Display
  | .next s => some s.disp
  | .fault _ => none
  | .refused _ => none

/-- An input record that presents word `w`. -/
def present (w : CmdWord) (echo : Bool) : Inputs where
  rst := false
  cmdValid := true
  cmdWord := w
  echo := echo

/-- An input record that presents nothing. -/
def quiet (echo : Bool) : Inputs where
  rst := false
  cmdValid := false
  cmdWord := 0
  echo := echo

/-- An input record that resets and presents a MEASURE. -/
def resetting : Inputs where
  rst := true
  cmdValid := true
  cmdWord := 0x10000
  echo := false

/-- CORE idle after a measurement of 580 µs and a frame of 42, with both flags set. -/
def idleRegs : Regs :=
  { Regs.reset with
    dcnt := 580, dur := 580, dist := 10, mdone := true, val := 42, digit := #v[0xF, 0xF, 4, 2],
    fb := #v[0x40, 0xC0, 0x00, 0x00, 0x00, 0x00, 0x66, 0x00, 0x5B, 0x8F],
    bitix := 7, sub := .low, dio := true, rdone := true }

/-- A machine around a CORE, with a display that holds one column. -/
def around (r : Regs) (is : List Inputs) : State where
  core := r
  disp := { rx := { trans := none, bits := [], closed := [] }
            autoInc := false, addr := 3, on := false, level := 0, ram := [(3, 0x7F)], latched := [(3, 0x3F)] }
  inputs := is
  tick := 0

/-- The display in the middle of an addressed transaction, next column 4. -/
def addressed : State :=
  { around idleRegs [] with
    disp := { rx := { trans := some [0xC0], bits := [], closed := [] }
              autoInc := true, addr := 4, on := false, level := 0, ram := [(3, 0x7F)], latched := [] } }

/-! ### Command words at acceptance (95_test_vectors.md V1 to V13) -/

theorem test_v1_no_command_without_valid :
    coreOf (step { State.reset with inputs := [{ quiet false with cmdWord := 0x10000 }] }) = some Regs.reset := by
  decide
theorem test_v3_nop : coreOf (step { State.reset with inputs := [present 0x0ABCD true] }) = some Regs.reset := by decide
theorem test_v11_nop_keeps_flags : coreOf (step (around idleRegs [present 0 false])) = some idleRegs := by decide
theorem test_v5_rsvd3 : coreOf (step { State.reset with inputs := [present 0x3FFFF true] }) = some Regs.reset := by
  decide
theorem test_v7_measure :
    coreOf (step { State.reset with inputs := [present 0x1FFFF false] }) =
      some { Regs.reset with mph := .trigger, trig := true } := by decide
theorem test_v12_measure_keeps_results :
    coreOf (step (around idleRegs [present 0x10000 true])) =
      some { idleRegs with mph := .trigger, trig := true, dcnt := 0, mdone := false } := by decide
theorem test_v8_render :
    coreOf (step { State.reset with inputs := [present 0x2002A false] }) =
      some { Regs.reset with
        val := 42, digit := #v[0xF, 0xF, 4, 2],
        fb := #v[0x40, 0xC0, 0x00, 0x00, 0x00, 0x00, 0x66, 0x00, 0x5B, 0x8F],
        rbusy := true, hold := 9, stb := false } := by decide
theorem test_v13_render_leaves_mdone :
    (coreOf (step (around idleRegs [present 0x20005 false]))).map (fun r => (r.mdone, r.rdone)) =
      some (true, false) := by decide
theorem test_v9_reset_wins : coreOf (step (around idleRegs [resetting])) = some Regs.reset := by decide
theorem test_v10_busy_drops :
    coreOf (step (around { Regs.reset with mph := .trigger, trig := true } [present 0x20007 false])) =
      some { Regs.reset with mph := .trigger, trig := true, tcnt := 1 } := by decide

/-! ### Wire bytes: the first step after reset on a placed byte (30_encoding.md R99; 42_digits.md R165; 20_memory.md
R61, R62) -/

theorem test_cmd_data : (dispOf (step (State.reset.withFetchWord 8 0x40))).map (·.autoInc) = some true := by decide
theorem test_cmd_addr : (dispOf (exec .cmdAddr addressed)).map (·.addr) = some 0 := by decide
theorem test_cmd_disp :
    (dispOf (step (State.reset.withFetchWord 8 0x8F))).map (fun d => (d.on, d.level)) = some (true, 7) := by decide
theorem test_seg0 :
    (dispOf (step (State.reset.withFetchWord 8 0x3F))).map (fun d => (d.ram, d.addr)) = some ([(0, 0x3F)], 1) := by
  decide
theorem test_seg9 :
    (dispOf (step (State.reset.withFetchWord 8 0x6F))).map (fun d => (d.ram, d.addr)) = some ([(0, 0x6F)], 1) := by
  decide

/-- What an addressed data byte leaves in the columns. -/
def stored (i : Instr) : Option Memory := (dispOf (exec i addressed)).map (·.ram)

theorem test_dummy_stores : stored .dummy = some [(3, 0x7F), (4, 0x00)] := by decide
theorem test_seg1_stores : stored .seg1 = some [(3, 0x7F), (4, 0x06)] := by decide
theorem test_seg2_stores : stored .seg2 = some [(3, 0x7F), (4, 0x5B)] := by decide
theorem test_seg3_stores : stored .seg3 = some [(3, 0x7F), (4, 0x4F)] := by decide
theorem test_seg4_stores : stored .seg4 = some [(3, 0x7F), (4, 0x66)] := by decide
theorem test_seg5_stores : stored .seg5 = some [(3, 0x7F), (4, 0x6D)] := by decide
theorem test_seg6_stores : stored .seg6 = some [(3, 0x7F), (4, 0x7D)] := by decide
theorem test_seg7_stores : stored .seg7 = some [(3, 0x7F), (4, 0x07)] := by decide
theorem test_seg8_stores : stored .seg8 = some [(3, 0x7F), (4, 0x7F)] := by decide
theorem test_seg_blank_stores : stored .segBlank = some [(3, 0x7F), (4, 0x00)] := by decide

/-- A command's eighth bit has no effect yet; the strobe's rise has (20_memory.md R75 (a)). -/
theorem test_command_waits_for_the_strobe :
    (dispOf (arrive .first 0x40 (around idleRegs []))).map (·.autoInc) = some false ∧
    (dispOf (commit [0x40] (around idleRegs []))).map (·.autoInc) = some true := by decide

/-- The strobe's rise latches what was shifted behind the address (20_memory.md R75 (b)). -/
theorem test_strobe_latches_data :
    (dispOf (commit [0xC0, 0x7F] addressed)).map (·.latched) = some [(3, 0x7F)] ∧
    (dispOf (commit [0x8F] addressed)).map (·.latched) = some [] := by decide

/-- 4 lights b, c, f, g (93_implementation_defined.md G1, G2). -/
theorem test_segments_of_4 :
    [Segment.a, .b, .c, .d, .e, .f, .g, .dp].map (segmentLit hardware 0x66) =
      [false, true, true, false, false, true, true, false] := by decide

/-- The eighth clock edge completes the byte, least significant bit first (43_serialize.md R196). -/
theorem test_receiver_takes_low_bit_first :
    byteOfBits [true, false, true, false, false, false, false, false] = 0x05 := by decide

/-! ### Engine steps (41_measure.md R137 to R142; 43_serialize.md R183 to R190) -/

theorem test_m12_cap :
    (Regs.stepMeasure true { Regs.reset with mph := .waitFall, dcnt := 29999 }) =
      { Regs.reset with dcnt := 30000, dur := 30000, dist := 517, mdone := true } := by decide
theorem test_m1_last_low_sample :
    (Regs.stepMeasure false { Regs.reset with mph := .waitRise, wcnt := 999 }) =
      { Regs.reset with mph := .waitFall, wcnt := 1000 } := by decide
theorem test_converter_vectors :
    [57, 58, 59, 115, 116, 5799, 5800, 29985, 29986].map distance = [0, 1, 1, 1, 2, 99, 100, 516, 517] := by decide
theorem test_e8_digits_of_100 : split 100 = #v[0xF, 1, 0, 0] := by decide
theorem test_e14_digits_of_1005 : split 1005 = #v[1, 0, 0, 5] := by decide
theorem test_frame_end :
    Regs.stepRender hardware { idleRegs with rbusy := true, rdone := false, rseq := 15 } = idleRegs := by decide
theorem test_bus_shift_is_96_ticks : (busShift hardware 0xA5).length = 96 := by decide

/-! ### Host scripts (30_encoding.md R104, R105) -/

theorem test_script_render_dist_presents_dist :
    hostTick idleRegs.outputs [.renderDist] = (.present 0x2000A, []) := by decide
theorem test_script_blink_wait_is_400_ms :
    hostTick idleRegs.outputs [.blinkWait] = (.quiet, [.idle 399999]) := by decide
theorem test_script_wait_m_with_flag_set_takes_no_tick :
    hostTick idleRegs.outputs [.waitM, .render 5] = (.present 0x20005, []) := by decide
theorem test_echo_waveform :
    [0, 499, 500, 1079, 1080].map (echoAt [(500, true), (1080, false)]) = [false, false, true, true, false] := by decide

/-! ### Witnesses: for each obligation with hypotheses, concrete values that meet them, clause by clause -/

theorem witness_DecodeOfEncode :
    Instr.wellFormed .port (.render 0xFFFF) = true ∧ Instr.wellFormed .first .cmdDisp = true ∧
    Instr.wellFormed .pattern .segBlank = true ∧ Instr.wellFormed .dummy .dummy = true := by decide

theorem witness_EncodeOfDecode :
    decode .port (.cw 0x3FFFF) = .ok (.rsvd3 0xFFFF) ∧ decode .first (.bus8 0xC0) = .ok .cmdAddr ∧
    decode .pattern (.bus8 0x00) = .ok .segBlank ∧ decode .dummy (.bus8 0x00) = .ok .dummy := by decide

theorem witness_CommandWordMatchAndMask :
    (0x0FFFF#18 &&& 0x30000 = 0x00000) ∧ (0x10000#18 &&& 0x30000 = 0x10000) ∧
    (0x2FFFF#18 &&& 0x30000 = 0x20000) ∧ (0x30000#18 &&& 0x30000 = 0x30000) := by decide

theorem witness_CommandWordFrame :
    (∃ t, exec (.nop 0xFFFF) (around idleRegs []) = .next t) ∧ (∃ t, exec (.rsvd3 0) (around idleRegs []) = .next t) ∧
    (∃ t, exec (.measure 0xFFFF) (around idleRegs []) = .next t) ∧
    (∃ t, exec (.render 0xFFFF) (around idleRegs []) = .next t) := ⟨⟨_, rfl⟩, ⟨_, rfl⟩, ⟨_, rfl⟩, ⟨_, rfl⟩⟩

theorem witness_StepRunsTheAcceptedCommand :
    (around idleRegs [present 0x2FFFF true]).core.busy = false ∧
    (around idleRegs [present 0x2FFFF true]).sample.rst = false ∧
    (around idleRegs [present 0x2FFFF true]).sample.cmdValid = true ∧
    decode .port (.cw (around idleRegs [present 0x2FFFF true]).sample.cmdWord) = .ok (.render 0xFFFF) := by decide

/-- A state whose next step completes byte `b` as byte number `n` of an addressed transaction. -/
def aboutToComplete (sent : List Byte) (b : Byte) : State :=
  { (around idleRegs []).placeByte .pattern b with
    disp := { addressed.disp with rx := { trans := some sent, bits := (List.range 7).map b.getLsbD, closed := [] } } }

theorem witness_StepRunsTheArrivedByte :
    (∃ u, runTurn (aboutToComplete [] 0x8F).sample (aboutToComplete [] 0x8F).consume
        (turn (aboutToComplete [] 0x8F).core (aboutToComplete [] 0x8F).sample) = .next u ∧
      u.disp.rx.received (aboutToComplete [] 0x8F).core.pins u.core.pins = some (.first, 0x8F)) ∧
    (∃ u, runTurn (aboutToComplete [0xC0] 0x6F).sample (aboutToComplete [0xC0] 0x6F).consume
        (turn (aboutToComplete [0xC0] 0x6F).core (aboutToComplete [0xC0] 0x6F).sample) = .next u ∧
      u.disp.rx.received (aboutToComplete [0xC0] 0x6F).core.pins u.core.pins = some (.pattern, 0x6F)) ∧
    (∃ u, runTurn (aboutToComplete [0xC0, 0x6F] 0x00).sample (aboutToComplete [0xC0, 0x6F] 0x00).consume
        (turn (aboutToComplete [0xC0, 0x6F] 0x00).core (aboutToComplete [0xC0, 0x6F] 0x00).sample) = .next u ∧
      u.disp.rx.received (aboutToComplete [0xC0, 0x6F] 0x00).core.pins u.core.pins = some (.dummy, 0x00)) ∧
    decode .first (.bus8 0x8F) = .ok .cmdDisp ∧ decode .pattern (.bus8 0x6F) = .ok .seg9 ∧
    decode .dummy (.bus8 0x00) = .ok .dummy ∧
    waitsForStrobe .cmdDisp = true ∧ waitsForStrobe .seg9 = false ∧ waitsForStrobe .dummy = false :=
  ⟨⟨_, rfl, by decide⟩, ⟨_, rfl, by decide⟩, ⟨_, rfl, by decide⟩, by decide⟩

/-- A state at the end of the last byte of a transaction that has received `sent`: the next step raises the strobe. -/
def aboutToCommit (sent : List Byte) : State :=
  { (around idleRegs []).placeWaiting 0 with
    disp := { addressed.disp with rx := { trans := some sent, bits := [], closed := [] } } }

theorem witness_StepRunsTheCommittedCommand :
    (∃ u, runTurn (aboutToCommit [0x40]).sample (aboutToCommit [0x40]).consume
        (turn (aboutToCommit [0x40]).core (aboutToCommit [0x40]).sample) = .next u ∧
      (aboutToCommit [0x40]).core.stb = false ∧ u.core.stb = true ∧ u.disp.rx.bits = [] ∧
      u.disp.rx.trans = some [0x40]) ∧
    (∃ u, runTurn (aboutToCommit [0x8F]).sample (aboutToCommit [0x8F]).consume
        (turn (aboutToCommit [0x8F]).core (aboutToCommit [0x8F]).sample) = .next u ∧
      (aboutToCommit [0x8F]).core.stb = false ∧ u.core.stb = true ∧ u.disp.rx.bits = [] ∧
      u.disp.rx.trans = some [0x8F]) ∧
    decode .first (.bus8 0x40) = .ok .cmdData ∧ waitsForStrobe .cmdData = true ∧
    decode .first (.bus8 0x8F) = .ok .cmdDisp ∧ waitsForStrobe .cmdDisp = true :=
  ⟨⟨_, rfl, by decide⟩, ⟨_, rfl, by decide⟩, by decide⟩

/-- The strobe does not rise in the one; it rises in the others, after each command, with and without data behind. -/
theorem witness_DeviceCommitsAtTheStrobe :
    (∃ t, step (around idleRegs [quiet true]) = .next t ∧ ¬(idleRegs.stb = false ∧ t.core.stb = true)) ∧
    ∀ bs ∈ [[0x40#8], [0xC0#8], [0xC0#8, 0x7F#8], [0x8F#8]],
      (∃ t, step (aboutToCommit bs) = .next t ∧ (aboutToCommit bs).core.stb = false ∧ t.core.stb = true) ∧
      (aboutToCommit bs).disp.rx.bits = [] ∧ (aboutToCommit bs).disp.rx.trans = some bs := by
  refine ⟨⟨_, rfl, by decide⟩, ?_⟩
  intro bs h
  simp only [List.mem_cons, List.not_mem_nil, or_false] at h
  rcases h with rfl | rfl | rfl | rfl <;> exact ⟨⟨_, rfl, by decide⟩, by decide⟩

theorem witness_IdleWithoutCommandStays :
    (around idleRegs [quiet true]).core.busy = false ∧ (around idleRegs [quiet true]).sample.rst = false ∧
    (around idleRegs [quiet true]).sample.cmdValid = false := by decide

/-- CORE in the last busy state of a measurement: a low sample finishes it. -/
def lastBusy : Regs := { idleRegs with mph := .waitFall, mdone := false }

/-- CORE in the last busy state of a frame. -/
def lastFrameTick : Regs := { idleRegs with rbusy := true, rdone := false, rseq := 15 }

theorem witness_BusyDropsCommands :
    lastBusy.busy = true ∧ lastFrameTick.busy = true ∧
    (∃ t, step (around lastBusy [present 0x20007 false, present 0x20007 false]) = .next t ∧ t.core.busy = false) ∧
    (present 0x20007 false).rst = false ∧ (present 0x20007 false).cmdValid = true :=
  ⟨by decide, by decide, ⟨_, rfl, by decide⟩, by decide, by decide⟩

theorem witness_DoneFlagsAreSticky :
    (∃ t, step (around lastBusy [quiet false]) = .next t ∧ t.core.mdone ≠ lastBusy.mdone ∧ t.core.mph = .idle) ∧
    (∃ t, step (around idleRegs [present 0x10000 false]) = .next t ∧ t.core.mdone ≠ idleRegs.mdone ∧
      t.core.mph = .trigger) ∧
    (∃ t, step (around lastFrameTick [quiet false]) = .next t ∧ t.core.rdone ≠ lastFrameTick.rdone ∧
      t.core.rbusy = false) ∧
    (∃ t, step (around idleRegs [present 0x20000 false]) = .next t ∧ t.core.rdone ≠ idleRegs.rdone ∧
      t.core.rbusy = true) ∧
    (quiet false).rst = false ∧ (present 0x10000 false).rst = false :=
  ⟨⟨_, rfl, by decide⟩, ⟨_, rfl, by decide⟩, ⟨_, rfl, by decide⟩, ⟨_, rfl, by decide⟩, rfl, rfl⟩

theorem witness_ResetWins : (around lastBusy [resetting]).sample.rst = true := by decide

/-- Reset with the strobe high, and with it low after whole bytes and no bit more: none, an address, a command. -/
theorem witness_ResetClosesTheTransaction :
    ((around idleRegs [resetting]).sample.rst = true ∧ (around idleRegs [resetting]).core.stb = true) ∧
    ({ addressed with core := { idleRegs with stb := false }, inputs := [resetting] } : State).sample.rst = true ∧
    ({ addressed with core := { idleRegs with stb := false } } : State).core.stb = false ∧
    addressed.disp.rx.trans = some [0xC0] ∧ addressed.disp.rx.bits = [] ∧
    ∀ bs ∈ [[], [0xC0#8], [0x40#8], [0x8F#8, 0x00#8]], ∀ b ∈ bs.head?, b = 0x40 ∨ b = 0xC0 ∨ b = 0x8F := by decide

theorem witness_TriggerTickRule :
    ∃ r q : Regs, r.mph = .trigger ∧ r.tcnt = 9 ∧ q.mph = .trigger ∧ q.tcnt ≠ 9 :=
  ⟨{ idleRegs with mph := .trigger, tcnt := 9 }, { idleRegs with mph := .trigger, tcnt := 8 }, by decide⟩

theorem witness_WaitRiseRule :
    ∃ r q : Regs, r.mph = .waitRise ∧ r.wcnt = 999 ∧ q.mph = .waitRise ∧ q.wcnt ≠ 999 :=
  ⟨{ idleRegs with mph := .waitRise, wcnt := 999 }, { idleRegs with mph := .waitRise, wcnt := 998 }, by decide⟩

theorem witness_WaitFallRule :
    ∃ r q : Regs, r.mph = .waitFall ∧ r.dcnt = 29999 ∧ q.mph = .waitFall ∧ q.dcnt ≠ 29999 :=
  ⟨{ idleRegs with mph := .waitFall, dcnt := 29999 }, { idleRegs with mph := .waitFall, dcnt := 29998 }, by decide⟩

/-- MEASURE at step 0, and `echo` high at the steps from `a` up to but not including `b`. -/
def measureInputs (a b k : Nat) : Inputs :=
  { rst := false, cmdValid := decide (k = 0), cmdWord := 0x1FFFF, echo := decide (a ≤ k ∧ k < b) }

theorem measureInputs_accepted (a b : Nat) : idleRegs.AcceptsMeasure (measureInputs a b 0) := by
  refine ⟨by decide, rfl, rfl, ?_⟩
  show (0x1FFFF#18).extractLsb' 16 2 = 0b01#2
  decide

theorem witness_TriggerPulseIsTenTicks :
    idleRegs.AcceptsMeasure (measureInputs 5 50 0) ∧ NoReset (measureInputs 5 50) 10 :=
  ⟨measureInputs_accepted .., fun _ _ => rfl⟩

/-- The hypotheses of MeasurementResult that speak of the inputs. -/
def EchoIs (ins : Nat → Inputs) (rise h : Nat) : Prop :=
  11 ≤ rise ∧ rise ≤ 1011 ∧ (∀ k, 11 ≤ k → k < rise → (ins k).echo = false) ∧
  (rise ≤ 1010 → (ins rise).echo = true) ∧ h ≤ 30000 ∧ (∀ j, j < h → (ins (rise + j)).echo = true) ∧
  (h < 30000 → (ins (rise + h)).echo = false) ∧ NoReset ins (rise + min h 29999)

/-- Vectors M3, M1, M8, M9, M11 of 95_test_vectors.md: each end of each range. -/
theorem witness_MeasurementResult :
    idleRegs.AcceptsMeasure (measureInputs 11 12 0) ∧ EchoIs (measureInputs 11 12) 11 1 ∧
    EchoIs (measureInputs 0 0) 1011 0 ∧ EchoIs (measureInputs 1010 40000) 1010 30000 ∧
    EchoIs (measureInputs 1011 40000) 1011 30000 ∧ EchoIs (measureInputs 11 30010) 11 29999 := by
  refine ⟨measureInputs_accepted .., ?_, ?_, ?_, ?_, ?_⟩ <;>
    exact ⟨by omega, by omega, fun k _ _ => by simp [measureInputs] <;> omega, by simp [measureInputs], by omega,
      fun j _ => by simp [measureInputs]; omega, by simp [measureInputs], fun _ _ => rfl⟩

theorem witness_MeasurementAlwaysEnds :
    idleRegs.AcceptsMeasure (measureInputs 1011 40000 0) ∧ NoReset (measureInputs 1011 40000) 31010 :=
  ⟨measureInputs_accepted .., fun _ _ => rfl⟩

theorem witness_EchoIgnoredOutsidePolling :
    (∃ s : State, s.core.mph ≠ .waitRise ∧ s.core.mph ≠ .waitFall) ∧
    ∃ s : State, s.core.mph = .trigger ∧ s.core.mph ≠ .waitRise ∧ s.core.mph ≠ .waitFall :=
  ⟨⟨around idleRegs [], by decide⟩, ⟨around { idleRegs with mph := .trigger } [], by decide⟩⟩

theorem witness_ResultsChangeOnlyAtTheFinish :
    (∃ t, step (around lastBusy [quiet false]) = .next t ∧ lastBusy.mph = .waitFall ∧ t.core.mph = .idle) ∧
    (∃ t, step (around lastBusy [quiet true]) = .next t ∧ ¬(lastBusy.mph = .waitFall ∧ t.core.mph = .idle)) ∧
    (quiet false).rst = false ∧ (quiet true).rst = false :=
  ⟨⟨_, rfl, by decide⟩, ⟨_, rfl, by decide⟩, rfl, rfl⟩

theorem witness_DistanceIsFloorDivision : ∃ d e : Nat, d ≤ 30000 ∧ d ≤ e ∧ d = 30000 := ⟨30000, 30001, by decide⟩

theorem witness_ReciprocalGivesDistance : ∃ d : Nat, d ≤ 30000 ∧ d = 30000 := ⟨30000, by decide⟩

/-- 999 and 1000, 99 and 100, 9 and 10: both sides of each blanking. -/
theorem witness_LeadingZerosAreBlanked :
    ((split 999)[0] = blank ∧ (split 1000)[0] ≠ blank) ∧ ((split 99)[1] = blank ∧ (split 100)[1] ≠ blank) ∧
    ((split 9)[2] = blank ∧ (split 10)[2] ≠ blank) := by decide

theorem witness_JoinOfSplit : ∃ n m : Nat, n ≤ 9999 ∧ 9999 < m ∧ m = n + 1 := ⟨9999, 10000, by decide⟩

theorem witness_SegmentOfEveryCode :
    ∃ a b c d : DigitCode, a.toNat < 10 ∧ b = 0xF ∧ 10 ≤ c.toNat ∧ c.toNat ≤ 14 ∧ 10 ≤ d.toNat ∧ d.toNat ≤ 14 :=
  ⟨9, 0xF, 10, 14, by decide⟩

/-- Two legal maps, this hardware's and its mirror. -/
theorem witness_SegmentsOfAPattern :
    hardware.segments.wf ∧ ({ a := 7, b := 6, c := 5, d := 4, e := 3, f := 2, g := 1, dp := 0 } : SegmentBits).wf ∧
    ∃ p q : Byte, ∀ x, segmentLit hardware p x = segmentLit hardware q x :=
  ⟨by decide, by decide, 0x66, 0x66, fun _ => rfl⟩

theorem witness_SerializerStepRule :
    (∃ r : Regs, r.hold ≠ 0) ∧ (∃ r : Regs, r.hold = 0 ∧ microOp r.rseq = .stb0) ∧
    (∃ r : Regs, r.hold = 0 ∧ microOp r.rseq = .stb1) ∧ ∃ r : Regs, r.hold = 0 ∧ microOp r.rseq = .byte 9 :=
  ⟨⟨{ idleRegs with hold := 1 }, by decide⟩, ⟨{ idleRegs with rseq := 13 }, by decide⟩, ⟨lastFrameTick, by decide⟩,
    ⟨{ idleRegs with rseq := 14 }, by decide⟩⟩

theorem witness_BitStepRule :
    (∃ r : Regs, r.sub = .setup) ∧ (∃ r : Regs, r.sub = .high) ∧ (∃ r : Regs, r.sub = .low ∧ r.bitix = 7) ∧
    ∃ r : Regs, r.sub = .low ∧ r.bitix ≠ 7 :=
  ⟨⟨Regs.reset, rfl⟩, ⟨{ idleRegs with sub := .high }, rfl⟩, ⟨idleRegs, by decide⟩,
    ⟨{ idleRegs with bitix := 6 }, by decide⟩⟩

theorem witness_NextOpRule : (∃ r : Regs, r.rseq = 15) ∧ ∃ r : Regs, r.rseq ≠ 15 :=
  ⟨⟨lastFrameTick, rfl⟩, ⟨{ idleRegs with rseq := 14 }, by decide⟩⟩

/-- The shortest and the longest hold times a configuration may have. -/
theorem witness_BitShifterIsBusShift :
    hardware.wf ∧ ({ hardware with tStb := 16, tDsu := 16, tCkh := 16, tCkl := 16 } : Config).wf ∧
    microOp 1 = .byte 0 ∧ microOp 14 = .byte 9 ∧
    ∃ r : Regs, r.rseq = 14 ∧ r.stb = false ∧ r.dclk = false :=
  ⟨by decide, by decide, by decide, by decide, ⟨{ idleRegs with rseq := 14, stb := false }, by decide⟩⟩

theorem witness_BusShiftSendsLowBitFirst :
    hardware.wf ∧ ({ hardware with tStb := 16, tDsu := 16, tCkh := 16, tCkl := 16 } : Config).wf := by decide

/-- RENDER 65535 at step 0 and at every later step. -/
def renderInputs (_k : Nat) : Inputs := present 0x2FFFF true

theorem renderInputs_accepted : idleRegs.AcceptsRender (renderInputs 0) 0xFFFF :=
  ⟨by decide, rfl, rfl, by show 0x2FFFF#18 = 0b10#2 ++ 0xFFFF#16; decide⟩

theorem witness_FrameTakes1020Ticks :
    idleRegs.AcceptsRender (renderInputs 0) 0xFFFF ∧ NoReset renderInputs 1020 :=
  ⟨renderInputs_accepted, fun _ _ => rfl⟩

/-- Two idle COREs that differ in every field an operation leaves behind. -/
theorem witness_NoResultDependsOnThePast :
    idleRegs.AcceptsRender (renderInputs 0) 0xFFFF ∧ Regs.reset.AcceptsRender (renderInputs 0) 0xFFFF ∧
    idleRegs.dclk = false ∧ Regs.reset.dclk = false ∧ NoReset renderInputs 1020 ∧
    idleRegs.AcceptsMeasure (measureInputs 11 12 0) ∧ Regs.reset.AcceptsMeasure (measureInputs 11 12 0) ∧
    NoReset (measureInputs 11 12) 12 ∧
    (∀ j, 1 ≤ j → j ≤ 12 → (idleRegs.after (measureInputs 11 12) j).mph ≠ .idle) ∧
    (idleRegs.after (measureInputs 11 12) 13).mph = .idle ∧ idleRegs.bitix ≠ Regs.reset.bitix :=
  ⟨renderInputs_accepted, renderInputs_accepted, rfl, rfl, fun _ _ => rfl, measureInputs_accepted 11 12,
    measureInputs_accepted 11 12, fun _ _ => rfl, by decide, by decide, by decide⟩

theorem witness_FrameSchedule :
    idleRegs.AcceptsRender (renderInputs 0) 0xFFFF ∧ idleRegs.dclk = false ∧ NoReset renderInputs 1020 ∧
    microOp 0 = .stb0 ∧ microOp 15 = .stb1 ∧ microOp 1 = .byte 0 ∧ microOp 14 = .byte 9 :=
  ⟨renderInputs_accepted, rfl, fun _ _ => rfl, by decide, by decide, by decide, by decide⟩

/-! #### States that meet the invariants -/

/-- CORE in the trigger pulse. -/
def triggering : Regs := { idleRegs with mph := .trigger, trig := true, dcnt := 0, mdone := false }

/-- CORE in the last tick of the first strobe settle of a frame: the next step puts bit 0 of CMD_DATA on the data
line. -/
def sendingRegs : Regs := { idleRegs with rbusy := true, rdone := false, rseq := 0, stb := false }

theorem idleRegs_inv : idleRegs.Inv where
  oneEngine := by decide
  timer :=
    { trigIff := by decide, tcntZero := by decide, distEq := by decide, durLe := by decide, distLe := by decide
      wcntLe := by decide, dcntLe := by decide, riseCounts := by decide, fallCount := by decide
      mdoneIdle := by decide, tcntLe := by decide, triggerCounts := by decide }
  serializer :=
    { idlePins := by decide, clockHigh := by decide, frameRegs := .inl ⟨by decide, by decide⟩
      rdoneIdle := by decide, strobeLevel := by decide, clockIff := by decide, holdLe := by decide
      dataLevel := by decide }

theorem triggering_inv : triggering.Inv where
  oneEngine := by decide
  timer :=
    { trigIff := by decide, tcntZero := by decide, distEq := by decide, durLe := by decide, distLe := by decide
      wcntLe := by decide, dcntLe := by decide, riseCounts := by decide, fallCount := by decide
      mdoneIdle := by decide, tcntLe := by decide, triggerCounts := by decide }
  serializer :=
    { idlePins := by decide, clockHigh := by decide, frameRegs := .inl ⟨by decide, by decide⟩
      rdoneIdle := by decide, strobeLevel := by decide, clockIff := by decide, holdLe := by decide
      dataLevel := by decide }

theorem sendingRegs_inv : sendingRegs.Inv where
  oneEngine := by decide
  timer :=
    { trigIff := by decide, tcntZero := by decide, distEq := by decide, durLe := by decide, distLe := by decide
      wcntLe := by decide, dcntLe := by decide, riseCounts := by decide, fallCount := by decide
      mdoneIdle := by decide, tcntLe := by decide, triggerCounts := by decide }
  serializer :=
    { idlePins := by decide, clockHigh := by decide, frameRegs := .inl ⟨by decide, by decide⟩
      rdoneIdle := by decide, strobeLevel := by decide, clockIff := by decide, holdLe := by decide
      dataLevel := by decide }

theorem around_wf (r : Regs) (is : List Inputs) : (around r is).disp.wf :=
  ⟨by show Memory.wf [(3, 0x7F)]; decide, by show Memory.wf [(3, 0x3F)]; decide⟩

theorem around_idleRegs_inv (is : List Inputs) : (around idleRegs is).Inv := 
  ⟨idleRegs_inv, around_wf _ _, rfl, rfl⟩

theorem around_triggering_inv (is : List Inputs) : (around triggering is).Inv := 
  ⟨triggering_inv, around_wf _ _, rfl, rfl⟩

/-- The machine around `sendingRegs`: a transaction is open and has no byte. -/
def sending (is : List Inputs) : State :=
  { around sendingRegs is with
    disp := { (around sendingRegs is).disp with rx := { trans := some [], bits := [], closed := [] } } }

theorem sending_inv (is : List Inputs) : (sending is).Inv := ⟨sendingRegs_inv, around_wf sendingRegs [], rfl, rfl⟩

theorem witness_ReceiverGetsTheFrame :
    ∃ (s : State) (i : Inputs) (rest : List Inputs),
      s.Inv ∧ s.inputs = i :: rest ∧ s.core.AcceptsRender i 0xFFFF ∧ 1020 ≤ rest.length ∧
      ∀ k ∈ rest.take 1020, k.rst = false := by
  refine ⟨around idleRegs (present 0x2FFFF true :: List.replicate 1020 (quiet true)), present 0x2FFFF true,
    List.replicate 1020 (quiet true), around_idleRegs_inv _, rfl, renderInputs_accepted, ?_, ?_⟩
  · rw [List.length_replicate]
  · intro k hk
    rw [List.eq_of_mem_replicate (List.mem_of_mem_take hk)]
    rfl

theorem witness_RunningFrameIgnoresInputs :
    (sending []).core.mph = .idle ∧ (sending []).core.rbusy = true ∧ (quiet true).rst = false ∧
    (present 0x10000 false).rst = false := by decide

/-- The data line falls in the one, the strobe falls in the other. -/
theorem witness_DisplayPinsMoveWithClockLow :
    ((sending [quiet true]).Inv ∧ (sending [quiet true]).sample.rst = false ∧
      ∃ t, step (sending [quiet true]) = .next t ∧ t.core.dio ≠ (sending [quiet true]).core.dio) ∧
    (around idleRegs [present 0x2FFFF true]).Inv ∧ (around idleRegs [present 0x2FFFF true]).sample.rst = false ∧
      ∃ t, step (around idleRegs [present 0x2FFFF true]) = .next t ∧ t.core.stb ≠ idleRegs.stb :=
  ⟨⟨sending_inv _, rfl, _, rfl, by decide⟩, around_idleRegs_inv _, rfl, _, rfl, by decide⟩

theorem witness_EnginesNeverOverlap :
    ((around triggering [quiet true]).Inv ∧ (around triggering [quiet true]).sample.rst = false ∧
      triggering.mph ≠ .idle ∧ ∃ t, step (around triggering [quiet true]) = .next t ∧ t.core.trig = true) ∧
    (sending [quiet true]).Inv ∧ (sending [quiet true]).core.rbusy = true ∧
      ∃ t, step (sending [quiet true]) = .next t :=
  ⟨⟨around_triggering_inv _, rfl, by decide, _, rfl, by decide⟩, sending_inv _, by decide, _, rfl⟩

theorem witness_StepKeepsTheCoreInvariant : ∃ r : Regs, r.Inv ∧ r.busy = true := ⟨sendingRegs, (sending_inv []).core, rfl⟩

theorem witness_StepKeepsTheMachineInvariant :
    ∃ s t : State, s.Inv ∧ step s = .next t ∧ s.core.rbusy = true :=
  ⟨sending [quiet true], _, sending_inv _, rfl, rfl⟩

/-- A data byte with an address in force, and one without. -/
theorem witness_DataBytesAreStored :
    addressed.disp.addressed = true ∧ (around idleRegs []).disp.addressed = false := by decide

theorem witness_WireByteFrame :
    (Slot.first ≠ .port ∧ Instr.wellFormed .first .cmdAddr = true ∧ ∃ t, exec .cmdAddr addressed = .next t) ∧
    (Slot.pattern ≠ .port ∧ Instr.wellFormed .pattern .seg9 = true ∧ ∃ t, exec .seg9 addressed = .next t) ∧
    (Slot.dummy ≠ .port ∧ Instr.wellFormed .dummy .dummy = true ∧ ∃ t, exec .dummy addressed = .next t) :=
  ⟨⟨by decide, by decide, _, rfl⟩, ⟨by decide, by decide, _, rfl⟩, by decide, by decide, _, rfl⟩

/-- Both ends of each bucket, and a pair in order. -/
theorem witness_BlinkDelayBuckets :
    (0 ≤ 2) ∧ (3 ≤ 3 ∧ 4 ≤ 4) ∧ (5 ≤ 5 ∧ 8 ≤ 8) ∧ (9 ≤ 9 ∧ 16 ≤ 16) ∧ (17 ≤ 17 ∧ 32 ≤ 32) ∧ 33 ≤ 33 ∧
    [0, 2, 3, 4, 5, 8, 9, 16, 17, 32, 33].map blinkDelay =
      [50, 50, 100, 100, 200, 200, 400, 400, 700, 700, 1000] := by decide

theorem witness_ScriptLinesPresentTheirWords :
    (65535 ≤ 65535) ∧ Regs.reset.outputs.mdone = false ∧ Regs.reset.outputs.rdone = false ∧
    triggering.outputs.busy = true := by decide

end Sys2Proof.Tests
end

section
/-! The output ports (10_state.md R45): BUSY as the proposition of R41, and the blink time, which its ten-bit port
carries without wrapping. -/

namespace Sys2Proof.Machine

/-- BUSY(s) (10_state.md R41). -/
theorem Regs.busy_iff (r : Regs) : r.busy = true ↔ r.mph ≠ .idle ∨ r.rbusy = true := by
  simp [Regs.busy]

/-- The longest blink time is that of the last bucket (44_blink.md R210). -/
theorem blinkDelay_le (x : Nat) : blinkDelay x ≤ 1000 := by
  unfold blinkDelay
  split_ifs <;> decide

/-- The port is wide enough: the longest blink time fits in its ten bits (44_blink.md R212). -/
@[simp] theorem Regs.outputs_blinkMs_toNat (r : Regs) : r.outputs.blinkMs.toNat = blinkDelay r.dist.toNat := by
  have fits : blinkDelay r.dist.toNat < 2 ^ 10 := (blinkDelay_le _).trans_lt (by decide)
  exact (BitVec.toNat_ofNat _ _).trans (Nat.mod_eq_of_lt fits)

/-- Settles O54: the plain ports are fields of the state, `busy` is R41's condition, and `blink_ms` does not wrap. -/
theorem outputsAreMoore : Obligations.OutputsAreMoore := by
  intro r
  exact ⟨rfl, rfl, rfl, rfl, r.busy_iff, rfl, rfl, rfl, rfl, r.outputs_blinkMs_toNat⟩

end Sys2Proof.Machine
end

section
/-! The command words (30_encoding.md R92, R94): the mask keeps just the `op` field, which selects the instruction. -/

namespace Sys2Proof

/-- The mask of R94 keeps the `op` field in its place and clears the argument. -/
theorem and_opMask (w : CmdWord) : w &&& 0x30000 = w.extractLsb' 16 2 ++ 0#16 := by
  have mask : (0x30000 : CmdWord) = BitVec.allOnes 2 ++ 0#16 := by decide
  have fields : w.extractLsb' 16 2 ++ w.extractLsb' 0 16 = w :=
    (BitVec.extractLsb'_append_extractLsb'_eq_extractLsb' (start₂ := 16) (start₁ := 0) (len₁ := 16) rfl).trans
      BitVec.extractLsb'_eq_self
  calc w &&& 0x30000
      = (w.extractLsb' 16 2 ++ w.extractLsb' 0 16) &&& (BitVec.allOnes 2 ++ 0#16) := by rw [fields, mask]
    _ = w.extractLsb' 16 2 ++ 0#16 := by rw [BitVec.and_append, BitVec.and_allOnes, BitVec.and_zero]

/-- So a masked word is the match value of `op` exactly when that is the word's `op` field. -/
theorem and_opMask_eq_iff (w : CmdWord) (op : BitVec 2) : w &&& 0x30000 = op ++ 0#16 ↔ w.extractLsb' 16 2 = op := by
  rw [and_opMask]
  constructor
  · intro h
    simpa only [BitVec.extractLsb'_append_eq_left] using congrArg (BitVec.extractLsb' 16 2) h
  · exact congrArg (· ++ 0#16)

section
variable {w : CmdWord}

theorem decodeCW_of_op_nop (h : w.extractLsb' 16 2 = 0b00#2) : decodeCW w = .nop (w.extractLsb' 0 16) := by
  simp [decodeCW, h]

theorem decodeCW_of_op_measure (h : w.extractLsb' 16 2 = 0b01#2) : decodeCW w = .measure (w.extractLsb' 0 16) := by
  simp [decodeCW, h]

theorem decodeCW_of_op_render (h : w.extractLsb' 16 2 = 0b10#2) : decodeCW w = .render (w.extractLsb' 0 16) := by
  simp [decodeCW, h]

theorem decodeCW_of_op_rsvd3 (h : w.extractLsb' 16 2 = 0b11#2) : decodeCW w = .rsvd3 (w.extractLsb' 0 16) := by
  simp [decodeCW, h]

end

/-- No command word is refused at the port (30_encoding.md R94). -/
@[simp] theorem decode_port_cw (w : CmdWord) : decode .port (.cw w) = .ok (decodeCW w) := rfl

/-- Settles O3: each mask case is a case of the `op` field, and the four values of that field are all there are. -/
theorem commandWordMatchAndMask : Obligations.CommandWordMatchAndMask := by
  intro w
  have opCases : ∀ op : BitVec 2, op = 0b00#2 ∨ op = 0b01#2 ∨ op = 0b10#2 ∨ op = 0b11#2 := by decide
  have nop : w &&& 0x30000 = 0x00000 ↔ w.extractLsb' 16 2 = 0b00#2 := and_opMask_eq_iff w 0b00
  have measure : w &&& 0x30000 = 0x10000 ↔ w.extractLsb' 16 2 = 0b01#2 := and_opMask_eq_iff w 0b01
  have render : w &&& 0x30000 = 0x20000 ↔ w.extractLsb' 16 2 = 0b10#2 := and_opMask_eq_iff w 0b10
  have rsvd3 : w &&& 0x30000 = 0x30000 ↔ w.extractLsb' 16 2 = 0b11#2 := and_opMask_eq_iff w 0b11
  rw [nop, measure, render, rsvd3]
  exact ⟨decodeCW_of_op_nop, decodeCW_of_op_measure, decodeCW_of_op_render, decodeCW_of_op_rsvd3,
    opCases _, decode_port_cw w⟩

end Sys2Proof
end

section
/-! The command words at the port (40_command.md R122 to R125): how each decodes at every operand, what each does when
accepted, and that the two engines are busy once started. -/

namespace Sys2Proof

section
variable (a : Arg)

/-- The `op` field of an assembled command word (30_encoding.md R90). -/
@[simp] theorem extractOp_append (op : BitVec 2) : (op ++ a : CmdWord).extractLsb' 16 2 = op :=
  BitVec.extractLsb'_append_eq_left

/-- The `arg` field of an assembled command word (30_encoding.md R91). -/
@[simp] theorem extractArg_append (op : BitVec 2) : (op ++ a : CmdWord).extractLsb' 0 16 = a :=
  BitVec.extractLsb'_append_eq_right

theorem decodeCW_append_nop : decodeCW (0b00#2 ++ a) = .nop a := by
  rw [decodeCW_of_op_nop (extractOp_append a _), extractArg_append]

theorem decodeCW_append_measure : decodeCW (0b01#2 ++ a) = .measure a := by
  rw [decodeCW_of_op_measure (extractOp_append a _), extractArg_append]

theorem decodeCW_append_render : decodeCW (0b10#2 ++ a) = .render a := by
  rw [decodeCW_of_op_render (extractOp_append a _), extractArg_append]

theorem decodeCW_append_rsvd3 : decodeCW (0b11#2 ++ a) = .rsvd3 a := by
  rw [decodeCW_of_op_rsvd3 (extractOp_append a _), extractArg_append]

end

namespace Machine

section
variable (a : Arg) (s : State)

@[simp] theorem exec_nop : exec (.nop a) s = .next s := rfl

@[simp] theorem exec_rsvd3 : exec (.rsvd3 a) s = .next s := rfl

@[simp] theorem exec_measure : exec (.measure a) s = .next { s with core := s.core.startMeasure } := rfl

@[simp] theorem exec_render : exec (.render a) s = .next { s with core := s.core.startRender hardware a } := rfl

end

theorem Regs.busy_startMeasure (r : Regs) : r.startMeasure.busy = true :=
  r.startMeasure.busy_iff.mpr (.inl (by simp [Regs.startMeasure_eq]))

theorem Regs.busy_startRender (c : Config) (v : Arg) (r : Regs) : (r.startRender c v).busy = true :=
  (r.startRender c v).busy_iff.mpr (.inr (by rw [Regs.startRender_eq]))

/-- Settles O6. -/
theorem nopChangesNothing : Obligations.NopChangesNothing := fun a s =>
  ⟨decodeCW_append_nop a, exec_nop a s⟩

/-- Settles O7. -/
theorem reservedCodeActsAsNop : Obligations.ReservedCodeActsAsNop := fun a s =>
  ⟨decodeCW_append_rsvd3 a, exec_rsvd3 a s, (exec_rsvd3 a s).trans (exec_nop a s).symm⟩

/-- Settles O8: the fields written are those of `Regs.startMeasure_eq`. -/
theorem measureStartsTheTrigger : Obligations.MeasureStartsTheTrigger := by
  intro a s
  refine ⟨decodeCW_append_measure a, ?_, s.core.busy_startMeasure⟩
  rw [exec_measure, Regs.startMeasure_eq]

/-- Settles O9: the fields written are those of `Regs.startRender_eq`, with the settle time of this hardware. -/
theorem renderLoadsTheFrame : Obligations.RenderLoadsTheFrame := by
  intro v s
  have settle : BitVec.ofNat 4 (hardware.tStb - 1) = 9 := by decide
  refine ⟨decodeCW_append_render v, ?_, s.core.busy_startRender hardware v⟩
  rw [exec_render, Regs.startRender_eq, settle]

end Machine

end Sys2Proof
end

section
/-! The step rule of CORE (40_command.md R120): the branch a tick takes is `Regs.step` on CORE's fields, and a tick is
that branch followed by the display sink's look at the pins. -/

namespace Sys2Proof.Machine

/-- What acceptance makes of CORE: the two codes that act, and the two that do not (40_command.md R122 to R125). -/
theorem exec_decodeCW (w : CmdWord) (s : State) : exec (decodeCW w) s = .next { s with
    core :=
      if w.extractLsb' 16 2 = 0b01#2 then s.core.startMeasure
      else if w.extractLsb' 16 2 = 0b10#2 then s.core.startRender hardware (w.extractLsb' 0 16)
      else s.core } := by
  have opCases : ∀ op : BitVec 2, op = 0b00#2 ∨ op = 0b01#2 ∨ op = 0b10#2 ∨ op = 0b11#2 := by decide
  rcases opCases (w.extractLsb' 16 2) with h | h | h | h
  · simp [decodeCW_of_op_nop h, h]
  · simp [decodeCW_of_op_measure h, h]
  · simp [decodeCW_of_op_render h, h]
  · simp [decodeCW_of_op_rsvd3 h, h]

/-- The branch a tick takes answers a next state, in which CORE has followed the step rule and nothing else moved. -/
theorem runTurn_turn (s : State) (i : Inputs) :
    runTurn i s (turn s.core i) = .next { s with core := s.core.step i } := by
  unfold turn Regs.step
  by_cases reset : i.rst = true
  · simp only [if_pos reset]; rfl
  by_cases timing : s.core.mph ≠ .idle
  · simp only [if_neg reset, if_pos timing]; rfl
  by_cases sending : s.core.rbusy = true
  · simp only [if_neg reset, if_neg timing, if_pos sending]; rfl
  by_cases offered : i.cmdValid = true
  · simp only [if_neg reset, if_neg timing, if_neg sending, if_pos offered]
    exact exec_decodeCW i.cmdWord s
  · simp only [if_neg reset, if_neg timing, if_neg sending, if_neg offered]; rfl

/-- A tick: CORE follows the step rule on the sampled inputs, then the display sink looks at the pins. -/
theorem step_eq_deliver (s : State) :
    step s = deliver s.core.pins { s.consume with core := s.core.step s.sample } := by
  rw [step, ← s.consume_core, runTurn_turn, andThen_next]

/-- Settles O13: CORE's part is `step_eq_deliver`, and the sink's look at the pins touches only the sink. -/
theorem stepFollowsTheStepRule : Obligations.StepFollowsTheStepRule := by
  intro s
  obtain ⟨d, delivered, observed, -⟩ :=
    deliver_cases s.core.pins { s.consume with core := s.core.step s.sample }
  exact ⟨_, (step_eq_deliver s).trans delivered, rfl, rfl, rfl, observed⟩

/-- While BUSY the step rule reads `rst` and `echo` only (40_command.md R126). -/
theorem Regs.step_congr_of_busy {r : Regs} (busy : r.busy = true) {i j : Inputs} (rst : i.rst = j.rst)
    (echo : i.echo = j.echo) : r.step i = r.step j := by
  unfold Regs.step
  rw [rst, echo]
  rcases r.busy_iff.mp busy with timing | sending
  · simp only [if_pos timing]
  · simp only [if_pos sending]

/-- An idle CORE accepts the command offered to it, unless it is reset (40_command.md R121). -/
theorem turn_accept {r : Regs} (idle : r.busy = false) {i : Inputs} (rst : i.rst = false)
    (offered : i.cmdValid = true) : turn r i = .accept (decodeCW i.cmdWord) := by
  have notBusy : ¬(r.mph ≠ .idle ∨ r.rbusy = true) := by rw [← r.busy_iff, idle]; decide
  obtain ⟨timer, serializer⟩ := not_or.mp notBusy
  simp only [turn, rst, Bool.false_eq_true, if_false, if_neg timer, if_neg serializer, if_pos offered]

/-- The first listed input record is the one sampled. -/
theorem State.sample_of_inputs {s : State} {i : Inputs} {rest : List Inputs} (h : s.inputs = i :: rest) :
    s.sample = i := by
  simp only [State.sample, h]

/-- Settles O15: a busy CORE does not read the command port, and the record after the one used up is sampled next, in
a state that accepts. -/
theorem busyDropsCommands : Obligations.BusyDropsCommands := by
  constructor
  · intro s i rest v w busy
    have sameCore : s.core.step i = s.core.step { i with cmdValid := v, cmdWord := w } :=
      Regs.step_congr_of_busy busy rfl rfl
    simp only [step_eq_deliver, State.sample_cons, sameCore]
    rfl
  · intro s t i j rest _ stepped idle rst offered
    obtain ⟨u, steppedTo, -, remaining, -⟩ := stepFollowsTheStepRule { s with inputs := i :: j :: rest }
    obtain rfl : u = t := Host.Outcome.next.inj (steppedTo.symm.trans stepped)
    have sampled : u.sample = j := State.sample_of_inputs remaining
    rw [sampled]
    exact turn_accept idle rst offered

end Sys2Proof.Machine
end

section
/-! The echo-timing engine one tick at a time (41_measure.md R137, R139, R141, R142), and its converter (R144). The
counters are compared with constants that fit in them, so each bound can be read on the register itself. -/

namespace Sys2Proof.Machine

section
variable {r : Regs}

theorem Regs.stepMeasure_of_trigger (hm : r.mph = .trigger) (echo : Bool) : r.stepMeasure echo = r.triggerTick := by
  simp only [stepMeasure, hm]

theorem Regs.stepMeasure_of_waitRise (hm : r.mph = .waitRise) (echo : Bool) :
    r.stepMeasure echo = r.waitRiseTick echo := by
  simp only [stepMeasure, hm]

theorem Regs.stepMeasure_of_waitFall (hm : r.mph = .waitFall) (echo : Bool) :
    r.stepMeasure echo = r.waitFallTick echo := by
  simp only [stepMeasure, hm]

end

section
variable (r : Regs)

theorem Regs.triggerTick_eq : r.triggerTick =
    if r.tcnt = 9 then { r with trig := false, tcnt := 0, mph := .waitRise } else { r with tcnt := r.tcnt + 1 } :=
  if_congr (BitVec.toNat_inj (y := 9)) rfl rfl

theorem Regs.waitRiseTick_high : r.waitRiseTick true = { r with dcnt := 1, mph := .waitFall } := rfl

theorem Regs.waitRiseTick_low : r.waitRiseTick false =
    if r.wcnt = 999 then { r with wcnt := 1000, mph := .waitFall } else { r with wcnt := r.wcnt + 1 } :=
  (if_neg Bool.false_ne_true).trans (if_congr (BitVec.toNat_inj (y := 999)) rfl rfl)

theorem Regs.waitFallTick_low : r.waitFallTick false = r.finish r.dcnt := rfl

theorem Regs.waitFallTick_high : r.waitFallTick true =
    if r.dcnt = 29999 then r.finish 30000 else { r with dcnt := r.dcnt + 1 } :=
  (if_neg Bool.false_ne_true).trans (if_congr (BitVec.toNat_inj (y := 29999)) rfl rfl)

/-- The capped count is converted too: 30000 µs are 517 cm (41_measure.md R142). -/
theorem Regs.finish_cap : r.finish 30000 =
    { r with dcnt := 30000, dur := 30000, dist := 517, mdone := true, mph := .idle } := by
  have converted : BitVec.ofNat 16 ((30000 : BitVec 15).toNat / 58) = 517 := by decide
  rw [finish_eq, converted]

end

/-- Settles O20: the tick is `Regs.triggerTick`, in which `echo` does not occur. -/
theorem triggerTickRule : Obligations.TriggerTickRule := by
  intro r echo hm
  rw [Regs.stepMeasure_of_trigger hm, Regs.triggerTick_eq]
  exact ⟨fun last => if_pos last, fun notLast => if_neg notLast⟩

/-- Settles O21: a high poll leaves the phase, a low one is counted. -/
theorem waitRiseRule : Obligations.WaitRiseRule := by
  intro r hm
  rw [Regs.stepMeasure_of_waitRise hm, Regs.stepMeasure_of_waitRise hm, Regs.waitRiseTick_low]
  exact ⟨r.waitRiseTick_high, fun last => if_pos last, fun notLast => if_neg notLast⟩

/-- Settles O22: a low poll finishes with the count, the last high one with the cap, any other is counted. -/
theorem waitFallRule : Obligations.WaitFallRule := by
  intro r hm
  rw [Regs.stepMeasure_of_waitFall hm, Regs.stepMeasure_of_waitFall hm, Regs.waitFallTick_low,
    Regs.waitFallTick_high]
  exact ⟨r.finish_eq r.dcnt, fun last => (if_pos last).trans r.finish_cap, fun notLast => if_neg notLast⟩

theorem distance_eq (d : Nat) : distance d = d / 58 := rfl

theorem distance_mono : Monotone distance := fun _ _ h => Nat.div_le_div_right h

/-- The longest count the engine makes converts to 517 cm, so every count stays below 518 cm. -/
theorem distance_lt_of_le_cap {d : Nat} (h : d ≤ 30000) : distance d < 518 :=
  (distance_mono h).trans_lt (by decide)

/-- Settles O28. -/
theorem distanceIsFloorDivision : Obligations.DistanceIsFloorDivision := by
  intro d
  have lower : 58 * distance d ≤ d := Nat.mul_div_le d 58
  have upper : d < 58 * (distance d + 1) := Nat.lt_mul_div_succ d (by decide)
  exact ⟨distance_eq d, lower, upper, distance_lt_of_le_cap, fun _ => @distance_mono d _⟩

end Sys2Proof.Machine
end

section
/-! The digit encoder (42_digits.md): the four decimal digits, leading-zero blanking, the inverse `join` and the
segment look-up. Each suppressed position is described by a bound on the clamped value. -/

namespace Sys2Proof.Machine

theorem clamp_eq (v : Nat) : clamp v = min v 9999 := rfl

theorem clamp_le (v : Nat) : clamp v ≤ 9999 := Nat.min_le_right v 9999

theorem clamp_of_le {v : Nat} (h : v ≤ 9999) : clamp v = v := Nat.min_eq_left h

theorem clamp_of_ge {v : Nat} (h : 9999 ≤ v) : clamp v = 9999 := Nat.min_eq_right h

section
variable (c : Nat)

theorem hundreds_lt : hundreds c < 10 := Nat.mod_lt _ (by decide)

theorem tens_lt : tens c < 10 := Nat.mod_lt _ (by decide)

theorem ones_lt : ones c < 10 := Nat.mod_lt _ (by decide)

/-- Only a clamped value has a thousands position of one digit. -/
theorem thousands_clamp_lt (v : Nat) : thousands (clamp v) < 10 :=
  Nat.div_lt_of_lt_mul (Nat.lt_succ_of_le (clamp_le v))

/-- A number is the weighted sum of its digits (42_digits.md R161). -/
theorem eq_weighted_digits : c = 1000 * thousands c + 100 * hundreds c + 10 * tens c + ones c := by
  unfold thousands hundreds tens ones
  omega

theorem thousands_eq_zero_iff : thousands c = 0 ↔ c < 1000 := Nat.div_eq_zero_iff_lt (by decide)

theorem leading_two_zero_iff : thousands c = 0 ∧ hundreds c = 0 ↔ c < 100 := by
  unfold thousands hundreds
  omega

theorem leading_three_zero_iff : thousands c = 0 ∧ hundreds c = 0 ∧ tens c = 0 ↔ c < 10 := by
  unfold thousands hundreds tens
  omega

end

/-! A position of `split` that holds a digit: it is blank exactly when suppressed, and reads back as the digit. -/

theorem toNat_digit {d : Nat} (hd : d < 10) : (BitVec.ofNat 4 d).toNat = d :=
  Nat.mod_eq_of_lt (hd.trans (by decide))

/-- BLANK is the code 15, which no digit has (30_encoding.md R101). -/
theorem digit_ne_blank {d : Nat} (hd : d < 10) : BitVec.ofNat 4 d ≠ blank := by
  intro same
  have code : d = 15 := (toNat_digit hd).symm.trans (congrArg BitVec.toNat same)
  omega

theorem weight_digit {d : Nat} (hd : d < 10) : weight (BitVec.ofNat 4 d) = d := by
  simp only [weight, toNat_digit hd, if_pos hd]

theorem weight_blank : weight blank = 0 := rfl

section
variable {p : Prop} [Decidable p] {d : Nat}

theorem blankedIf_eq_blank_iff (hd : d < 10) : blankedIf p d = blank ↔ p := by
  by_cases suppressed : p
  · exact iff_of_true (if_pos suppressed) suppressed
  · exact iff_of_false ((if_neg suppressed).trans_ne (digit_ne_blank hd)) suppressed

theorem toNat_blankedIf (hd : d < 10) (shown : blankedIf p d ≠ blank) : (blankedIf p d).toNat = d := by
  have notSuppressed : ¬p := mt (blankedIf_eq_blank_iff hd).mpr shown
  rw [blankedIf, if_neg notSuppressed, toNat_digit hd]

/-- `join` does not see the blanking, since only a zero is suppressed (42_digits.md R168). -/
theorem weight_blankedIf (hd : d < 10) (zero : p → d = 0) : weight (blankedIf p d) = d := by
  by_cases suppressed : p
  · rw [blankedIf, if_pos suppressed, weight_blank, zero suppressed]
  · rw [blankedIf, if_neg suppressed, weight_digit hd]

end

section
variable (v : Nat)

theorem split_thousands : (split v)[0] = blankedIf (thousands (clamp v) = 0) (thousands (clamp v)) := rfl

theorem split_hundreds : (split v)[1] =
    blankedIf (thousands (clamp v) = 0 ∧ hundreds (clamp v) = 0) (hundreds (clamp v)) := rfl

theorem split_tens : (split v)[2] =
    blankedIf (thousands (clamp v) = 0 ∧ hundreds (clamp v) = 0 ∧ tens (clamp v) = 0) (tens (clamp v)) := rfl

theorem split_ones : (split v)[3] = BitVec.ofNat 4 (ones (clamp v)) := rfl

/-- `split` loses nothing of the clamped value. -/
theorem join_split : join (split v) = clamp v := by
  have wThousands : weight (split v)[0] = thousands (clamp v) := weight_blankedIf (thousands_clamp_lt v) id
  have wHundreds : weight (split v)[1] = hundreds (clamp v) := weight_blankedIf (hundreds_lt _) fun zero => zero.2
  have wTens : weight (split v)[2] = tens (clamp v) := weight_blankedIf (tens_lt _) fun zero => zero.2.2
  have wOnes : weight (split v)[3] = ones (clamp v) := weight_digit (ones_lt _)
  rw [join, wThousands, wHundreds, wTens, wOnes, ← eq_weighted_digits]

end

/-- Settles O31: a position is blank exactly when suppressed, and it is suppressed exactly below its power of ten. -/
theorem leadingZerosAreBlanked : Obligations.LeadingZerosAreBlanked := by
  intro v
  rw [split_thousands, split_hundreds, split_tens, split_ones]
  have thousandsLt := thousands_clamp_lt v
  have hundredsLt := hundreds_lt (clamp v)
  have tensLt := tens_lt (clamp v)
  have onesLt := ones_lt (clamp v)
  exact ⟨(blankedIf_eq_blank_iff thousandsLt).trans (thousands_eq_zero_iff _),
    (blankedIf_eq_blank_iff hundredsLt).trans (leading_two_zero_iff _),
    (blankedIf_eq_blank_iff tensLt).trans (leading_three_zero_iff _), digit_ne_blank onesLt,
    toNat_blankedIf thousandsLt, toNat_blankedIf hundredsLt, toNat_blankedIf tensLt, toNat_digit onesLt⟩

/-- Settles O33: `join` gives back the clamped value. -/
theorem joinOfSplit : Obligations.JoinOfSplit := by
  intro n
  rw [join_split]
  exact ⟨clamp_of_le, fun above => clamp_of_ge above.le⟩

/-- Settles O30. -/
theorem clampAndDecimalDigits : Obligations.ClampAndDecimalDigits := by
  constructor
  · intro r a
    rw [Regs.startRender_eq]
  · intro v
    exact ⟨clamp_eq v, rfl, rfl, rfl, rfl, Nat.le_of_lt_succ (thousands_clamp_lt v),
      Nat.le_of_lt_succ (hundreds_lt _), Nat.le_of_lt_succ (tens_lt _), Nat.le_of_lt_succ (ones_lt _),
      eq_weighted_digits _⟩

/-- Settles O32: closed values, which the model computes. -/
theorem splitExamples : Obligations.SplitExamples := by
  unfold Obligations.SplitExamples
  decide

section
variable (c : Config) {e : DigitCode}

theorem seg_of_digit (h : e.toNat < 10) : seg c e = c.seg[e.toNat] := dif_pos h

/-- BLANK and the codes `split` never produces give the all-off pattern (42_digits.md R166). -/
theorem seg_of_not_digit (h : 10 ≤ e.toNat) : seg c e = 0x00 := dif_neg h.not_gt

end

/-- Settles O34: the look-up distinguishes digits from all other codes, BLANK among them. -/
theorem segmentOfEveryCode : Obligations.SegmentOfEveryCode := by
  intro c e
  refine ⟨fun digit => seg_of_digit c digit, ?_, fun notDigit _ => seg_of_not_digit c notDigit⟩
  rintro rfl
  exact seg_of_not_digit c (by decide)

end Sys2Proof.Machine
end

section
/-! The display serializer one step at a time (43_serialize.md R182, R183, R185, R186, R188, R190): an equation for
each case of each operation. -/

namespace Sys2Proof.Machine

section
variable {c : Config} {r : Regs} {j : Fin 10}

theorem Regs.stepRender_of_hold (h : r.hold ≠ 0) : r.stepRender c = { r with hold := r.hold - 1 } := if_pos h

theorem Regs.stepRender_of_strobe (h : r.hold = 0) (op : microOp r.rseq = .stb0 ∨ microOp r.rseq = .stb1) :
    r.stepRender c = r.nextOp c := by
  rcases op with op | op <;> simp only [stepRender, h, ne_eq, not_true_eq_false, if_false, op]

theorem Regs.stepRender_of_byte (h : r.hold = 0) (op : microOp r.rseq = .byte j) :
    r.stepRender c = r.bitStep c j := by
  simp only [stepRender, h, ne_eq, not_true_eq_false, if_false, op]

theorem Regs.bitStep_of_setup (h : r.sub = .setup) :
    r.bitStep c j = ({ r with dclk := true, sub := .high } : Regs).startHold c.tCkh := by
  simp only [bitStep, h]

theorem Regs.bitStep_of_high (h : r.sub = .high) :
    r.bitStep c j = ({ r with dclk := false, sub := .low } : Regs).startHold c.tCkl := by
  simp only [bitStep, h]

theorem Regs.bitStep_of_last_low (h : r.sub = .low) (last : r.bitix = 7) : r.bitStep c j = r.nextOp c := by
  simp only [bitStep, h, if_pos last]

theorem Regs.bitStep_of_low (h : r.sub = .low) (more : r.bitix ≠ 7) :
    r.bitStep c j = ({ r with
      bitix := r.bitix + 1, sub := .setup, dio := r.fb[j].getLsbD (r.bitix.toNat + 1) } : Regs).startHold c.tDsu := by
  simp only [bitStep, h, if_neg more]

theorem Regs.nextOp_of_last (h : r.rseq = 15) :
    r.nextOp c = { r with rbusy := false, rdone := true, rseq := 0 } := if_pos h

theorem Regs.nextOp_of_ne_last (h : r.rseq ≠ 15) :
    r.nextOp c = ({ r with rseq := r.rseq + 1 } : Regs).enter c (microOp (r.rseq + 1)) := if_neg h

end

/-- Settles O35: the loading is that of `Regs.startRender_eq`; the example is a closed value. -/
theorem frameHasTheseTenBytes : Obligations.FrameHasTheseTenBytes := by
  refine ⟨fun c B => rfl, fun c r v j => ?_, by decide⟩
  rw [Regs.startRender_eq]

/-- Settles O36. -/
theorem serializerStepRule : Obligations.SerializerStepRule := fun _ _ =>
  ⟨Regs.stepRender_of_hold, Regs.stepRender_of_strobe, fun _ => Regs.stepRender_of_byte⟩

/-- Settles O37: each micro-op's writes, the start of its hold among them, are the definition's. -/
theorem enterMicroOpRule : Obligations.EnterMicroOpRule := fun _ _ => ⟨rfl, rfl, fun _ => rfl⟩

/-- Settles O38: a hold of `n` ticks is started with `n - 1`, so each case is its equation. -/
theorem bitStepRule : Obligations.BitStepRule := fun _ _ _ =>
  ⟨Regs.bitStep_of_setup, Regs.bitStep_of_high, Regs.bitStep_of_last_low, Regs.bitStep_of_low⟩

/-- Settles O39. -/
theorem nextOpRule : Obligations.NextOpRule := fun _ _ => ⟨Regs.nextOp_of_last, Regs.nextOp_of_ne_last⟩

end Sys2Proof.Machine
end

section
/-! The bit-shift primitive `BusShift` (43_serialize.md R187): it is eight bits of three constant parts each. -/

namespace Sys2Proof.Machine

/-- The levels `BusShift(b)` puts on the pins for bit `i`: set-up, clock high, clock low (43_serialize.md R187). -/
def bitLevels (c : Config) (b : Byte) (i : Nat) : List Pins :=
  List.replicate c.tDsu { stb := false, dclk := false, dio := b.getLsbD i }
    ++ List.replicate c.tCkh { stb := false, dclk := true, dio := b.getLsbD i }
    ++ List.replicate c.tCkl { stb := false, dclk := false, dio := b.getLsbD i }

theorem busShift_eq_flatMap (c : Config) (b : Byte) : busShift c b = (List.range 8).flatMap (bitLevels c b) := rfl

theorem length_bitLevels (c : Config) (b : Byte) (i : Nat) : (bitLevels c b i).length = c.tDsu + c.tCkh + c.tCkl := by
  simp only [bitLevels, List.length_append, List.length_replicate]

section
variable {α : Type} {f : Nat → List α} {L : Nat} (len : ∀ i, (f i).length = L) {n : Nat}
include len

theorem length_flatMap_range : ((List.range n).flatMap f).length = n * L := by
  simp [List.length_flatMap, len]

/-- A concatenation of blocks of one length, read at offset `x` of block `i`. -/
theorem getElem?_flatMap_range {i x : Nat} (hi : i < n) (hx : x < L) :
    ((List.range n).flatMap f)[L * i + x]? = (f i)[x]? := by
  induction n with
  | zero => exact absurd hi (Nat.not_lt_zero i)
  | succ n ih =>
    have before : ((List.range n).flatMap f).length = L * n := (length_flatMap_range len).trans (Nat.mul_comm n L)
    rw [List.range_succ, List.flatMap_append, List.flatMap_singleton]
    rcases Nat.lt_succ_iff_lt_or_eq.mp hi with inside | rfl
    · have within : L * i + x < L * n := by
        calc L * i + x < L * (i + 1) := by rw [Nat.mul_succ]; omega
          _ ≤ L * n := Nat.mul_le_mul_left L inside
      rw [List.getElem?_append_left (by omega), ih inside]
    · rw [List.getElem?_append_right (by omega), before, Nat.add_sub_cancel_left]

end

theorem length_busShift (c : Config) (b : Byte) : (busShift c b).length = 8 * (c.tDsu + c.tCkh + c.tCkl) :=
  length_flatMap_range (length_bitLevels c b)

/-- On this hardware a bit is two ticks of set-up, five with the clock high and five with it low. -/
theorem getElem?_bitLevels_hardware (b : Byte) (i : Nat) {x : Nat} (hx : x < 12) :
    (bitLevels hardware b i)[x]? = some { stb := false, dclk := decide (2 ≤ x ∧ x < 7), dio := b.getLsbD i } := by
  have everyTick : ∀ d : Bool, ∀ x : Fin 12,
      (List.replicate 2 (Pins.mk false false d) ++ List.replicate 5 (Pins.mk false true d)
        ++ List.replicate 5 (Pins.mk false false d))[x.val]? =
      some (Pins.mk false (decide (2 ≤ x.val ∧ x.val < 7)) d) := by
    decide
  exact everyTick (b.getLsbD i) ⟨x, hx⟩

/-! ### What a receiver samples -/

/-- Levels that stay have no edge. -/
theorem risingLevels_same_run (p : Pins) (n : Nat) (ps : List Pins) :
    risingLevels (p :: (List.replicate n p ++ ps)) = risingLevels (p :: ps) := by
  induction n with
  | zero => rfl
  | succ n ih => simp [List.replicate_succ, risingLevels, ih]

/-- Going to constant levels for some ticks has the one edge at its start. -/
theorem risingLevels_run (p q : Pins) {n : Nat} (hn : 0 < n) (ps : List Pins) :
    risingLevels (p :: (List.replicate n q ++ ps)) =
      (if !p.dclk && q.dclk then [q.dio] else []) ++ risingLevels (q :: ps) := by
  obtain ⟨m, rfl⟩ := Nat.exists_eq_succ_of_ne_zero hn.ne'
  rw [List.replicate_succ, List.cons_append, risingLevels, risingLevels_same_run]

/-- A bit entered and left with the clock low has one rising edge, at which the data line has the bit. -/
theorem risingLevels_bitLevels {c : Config} (legal : c.wf) (b : Byte) (i : Nat) {p : Pins} (low : p.dclk = false)
    (ps : List Pins) :
    risingLevels (p :: (bitLevels c b i ++ ps)) =
      b.getLsbD i :: risingLevels ({ stb := false, dclk := false, dio := b.getLsbD i } :: ps) := by
  obtain ⟨-, ⟨setup, -⟩, ⟨high, -⟩, ⟨lowAgain, -⟩⟩ := legal
  rw [bitLevels, List.append_assoc, List.append_assoc, risingLevels_run _ _ (by omega),
    risingLevels_run _ _ (by omega), risingLevels_run _ _ (by omega)]
  simp [low]

/-- Bit after bit, from a low clock: the bits in the order they are sent. -/
theorem risingLevels_flatMap_bitLevels {c : Config} (legal : c.wf) (b : Byte) (bits : List Nat) {p : Pins}
    (low : p.dclk = false) : risingLevels (p :: bits.flatMap (bitLevels c b)) = bits.map b.getLsbD := by
  induction bits generalizing p with
  | nil => rfl
  | cons i bits ih => rw [List.flatMap_cons, risingLevels_bitLevels legal b i low, ih rfl, List.map_cons]

/-- A low level put before a low level adds no edge. -/
theorem risingLevels_cons_of_low {p : Pins} {ps : List Pins} (low : ∀ q ∈ ps.head?, q.dclk = false) :
    risingLevels (p :: ps) = risingLevels ps := by
  cases ps with
  | nil => rfl
  | cons q ps => simp [risingLevels, low q rfl]

/-- The clock is low in the first tick of `BusShift`. -/
theorem busShift_head_low {c : Config} (legal : c.wf) (b : Byte) : ∀ q ∈ (busShift c b).head?, q.dclk = false := by
  obtain ⟨-, ⟨setup, -⟩, -⟩ := legal
  obtain ⟨n, hn⟩ := Nat.exists_eq_succ_of_ne_zero (show c.tDsu ≠ 0 by omega)
  simp [busShift_eq_flatMap, List.range_succ_eq_map, bitLevels, hn, List.replicate_succ]

/-- Settles O41: a low level put before `BusShift` adds no edge, and then each bit adds its own. -/
theorem busShiftSendsLowBitFirst : Obligations.BusShiftSendsLowBitFirst := by
  have sent : ∀ (c : Config) (b : Byte), c.wf → risingLevels (busShift c b) = (List.range 8).map b.getLsbD := by
    intro c b legal
    rw [← risingLevels_cons_of_low (p := Pins.mk false false false) (busShift_head_low legal b),
      busShift_eq_flatMap, risingLevels_flatMap_bitLevels legal b _ rfl]
  have legal : hardware.wf := by decide
  exact ⟨sent, (sent hardware 0x05 legal).trans (by decide)⟩

end Sys2Proof.Machine
end

section
/-! The bit shifter runs `BusShift` (43_serialize.md R187): each part of a bit is a hold, on which the pins stay, and
the tick that finds the hold over starts the next part. -/

namespace Sys2Proof.Machine

/-! ### Holds -/

theorem Regs.startHold_pins (r : Regs) (n : Nat) : (r.startHold n).pins = r.pins := rfl

/-- A tick of a hold that is not over only counts it down (43_serialize.md R183). -/
theorem Regs.stepRender_startHold (c : Config) (r : Regs) {n : Nat} (hn : 0 < n) (fits : n + 1 ≤ 16) :
    (r.startHold (n + 1)).stepRender c = r.startHold n := by
  obtain ⟨m, rfl⟩ := Nat.exists_eq_succ_of_ne_zero hn.ne'
  have left : (BitVec.ofNat 4 (m + 1)).toNat = m + 1 := Nat.mod_eq_of_lt fits
  have running : BitVec.ofNat 4 (m + 1) ≠ 0 := fun zero =>
    m.succ_ne_zero (left.symm.trans (congrArg BitVec.toNat zero))
  have countDown : BitVec.ofNat 4 (m + 1) - 1 = BitVec.ofNat 4 m := by
    rw [BitVec.ofNat_add]
    exact BitVec.add_sub_cancel _ _
  exact (stepRender_of_hold running).trans (congrArg (fun hold => ({ r with hold := hold } : Regs)) countDown)

/-- A hold of `n` ticks is over after `n - 1`: the `n`th tick does the next action. -/
theorem Regs.iterate_stepRender_startHold (c : Config) (r : Regs) {n : Nat} (hn : 0 < n) (fits : n ≤ 16) :
    (stepRender c)^[n] (r.startHold n) = (r.startHold 1).stepRender c := by
  induction n, hn using Nat.le_induction with
  | base => rfl
  | succ n hn ih => rw [Function.iterate_succ_apply, stepRender_startHold c r hn fits, ih (by omega)]

/-- A hold of `n` ticks shows the same pins `n` times. -/
theorem Regs.pins_startHold (c : Config) (r : Regs) {n : Nat} (hn : 0 < n) (fits : n ≤ 16) :
    (List.iterate (stepRender c) (r.startHold n) n).map pins = List.replicate n r.pins := by
  induction n, hn using Nat.le_induction with
  | base => rfl
  | succ n hn ih =>
    rw [List.iterate, List.map_cons, stepRender_startHold c r hn fits, ih (by omega), startHold_pins,
      List.replicate_succ]

/-! ### The parts of a bit -/

/-- `r` in part `sub` of bit `i` of `FB[j]`: the bit on the data line, the clock high in HIGH only. -/
def Regs.inBit (r : Regs) (j : Fin 10) (i : Nat) (sub : SubPhase) : Regs :=
  { r with bitix := BitVec.ofNat 3 i, sub := sub, dclk := decide (sub = .high), dio := r.fb[j].getLsbD i }

/-- The first tick of bit `i` of `FB[j]`: its set-up begins. -/
abbrev Regs.bitStart (c : Config) (r : Regs) (j : Fin 10) (i : Nat) : Regs := (r.inBit j i .setup).startHold c.tDsu

/-- Entering a byte is where its first bit begins (43_serialize.md R186). -/
theorem Regs.enter_byte_eq_bitStart (c : Config) {r : Regs} (j : Fin 10) (low : r.dclk = false) :
    r.enter c (.byte j) = r.bitStart c j 0 := by
  simp [enter, inBit, startHold, low]

section
variable (c : Config) {r : Regs} {j : Fin 10} (i : Nat) (op : microOp r.rseq = .byte j)
include op

/-- When a hold inside a byte is over, the tick is a step inside the byte. -/
theorem Regs.stepRender_inBit (sub : SubPhase) :
    ((r.inBit j i sub).startHold 1).stepRender c = ((r.inBit j i sub).startHold 1).bitStep c j :=
  stepRender_of_byte rfl op

theorem Regs.stepRender_inBit_setup :
    ((r.inBit j i .setup).startHold 1).stepRender c = (r.inBit j i .high).startHold c.tCkh := by
  rw [stepRender_inBit c i op, bitStep_of_setup rfl]
  rfl

theorem Regs.stepRender_inBit_high :
    ((r.inBit j i .high).startHold 1).stepRender c = (r.inBit j i .low).startHold c.tCkl := by
  rw [stepRender_inBit c i op, bitStep_of_high rfl]
  rfl

theorem Regs.stepRender_inBit_low (hi : i < 7) :
    ((r.inBit j i .low).startHold 1).stepRender c = r.bitStart c j (i + 1) := by
  have index : (BitVec.ofNat 3 i).toNat = i := Nat.mod_eq_of_lt (by omega)
  have notLast : BitVec.ofNat 3 i ≠ 7 := fun last => hi.ne (index.symm.trans (congrArg BitVec.toNat last))
  have next : BitVec.ofNat 3 i + 1 = BitVec.ofNat 3 (i + 1) := (BitVec.ofNat_add i 1).symm
  rw [stepRender_inBit c i op, bitStep_of_low rfl notLast]
  simp only [startHold, inBit, index, next, reduceCtorEq, decide_false]

variable (legal : c.wf)
include legal

/-- The ticks of the set-up end where the high part begins. -/
theorem Regs.iterate_stepRender_to_high :
    (stepRender c)^[c.tDsu] (r.bitStart c j i) = (r.inBit j i .high).startHold c.tCkh := by
  obtain ⟨-, ⟨_, setupFits⟩, -⟩ := legal
  rw [iterate_stepRender_startHold c _ (by omega) setupFits, stepRender_inBit_setup c i op]

/-- The ticks of the set-up and of the high part end where the low part begins. -/
theorem Regs.iterate_stepRender_to_low :
    (stepRender c)^[c.tDsu + c.tCkh] (r.bitStart c j i) = (r.inBit j i .low).startHold c.tCkl := by
  have toHigh := iterate_stepRender_to_high c i op legal
  obtain ⟨-, -, ⟨_, highFits⟩, -⟩ := legal
  rw [Nat.add_comm, Function.iterate_add_apply, toHigh, iterate_stepRender_startHold c _ (by omega) highFits,
    stepRender_inBit_high c i op]

/-- One bit before the last takes the shifter to the start of the next. -/
theorem Regs.iterate_stepRender_bit (hi : i < 7) :
    (stepRender c)^[c.tDsu + c.tCkh + c.tCkl] (r.bitStart c j i) = r.bitStart c j (i + 1) := by
  have toLow := iterate_stepRender_to_low c i op legal
  obtain ⟨-, -, -, ⟨_, lowFits⟩⟩ := legal
  rw [Nat.add_comm, Function.iterate_add_apply, toLow, iterate_stepRender_startHold c _ (by omega) lowFits,
    stepRender_inBit_low c i op hi]

/-- The pins during one bit, the strobe being low. -/
theorem Regs.pins_bit (strobe : r.stb = false) :
    (List.iterate (stepRender c) (r.bitStart c j i) (c.tDsu + c.tCkh + c.tCkl)).map pins = bitLevels c r.fb[j] i := by
  have toHigh := iterate_stepRender_to_high c i op legal
  have toLow := iterate_stepRender_to_low c i op legal
  obtain ⟨-, ⟨_, setupFits⟩, ⟨_, highFits⟩, ⟨_, lowFits⟩⟩ := legal
  rw [List.iterate_add, List.iterate_add, toHigh, toLow, List.map_append, List.map_append,
    pins_startHold c _ (by omega) setupFits, pins_startHold c _ (by omega) highFits,
    pins_startHold c _ (by omega) lowFits]
  simp [bitLevels, inBit, pins, strobe]

end

/-! ### A whole byte -/

section
variable {α : Type} {f : α → α} {a : Nat → α} {L : Nat}

/-- A run through the stages `a 0`, `a 1`, ... of `L` steps each. -/
theorem iterate_mul_of_stages {n : Nat} (stage : ∀ i, i < n → f^[L] (a i) = a (i + 1)) : f^[L * n] (a 0) = a n := by
  induction n with
  | zero => rfl
  | succ n ih =>
    rw [Nat.mul_succ, Nat.add_comm, Function.iterate_add_apply, ih fun i hi => stage i (hi.trans n.lt_succ_self),
      stage n n.lt_succ_self]

/-- Such a run is that of its stages, one after the other. -/
theorem listIterate_mul_of_stages {n : Nat} (stage : ∀ i, i + 1 < n → f^[L] (a i) = a (i + 1)) :
    List.iterate f (a 0) (L * n) = (List.range n).flatMap fun i => List.iterate f (a i) L := by
  induction n with
  | zero => rfl
  | succ n ih =>
    have reached : f^[L * n] (a 0) = a n := iterate_mul_of_stages fun i hi => stage i (Nat.succ_lt_succ hi)
    rw [Nat.mul_succ, List.iterate_add, reached, ih fun i hi => stage i (hi.trans n.lt_succ_self), List.range_succ,
      List.flatMap_append, List.flatMap_singleton]

end

/-- The pins from the entry of BYTE(j) on, for the ticks of its eight bits. -/
theorem Regs.pins_byte (c : Config) {r : Regs} {j : Fin 10} (legal : c.wf) (op : microOp r.rseq = .byte j)
    (strobe : r.stb = false) (clock : r.dclk = false) :
    (List.iterate (stepRender c) (r.enter c (.byte j)) ((c.tDsu + c.tCkh + c.tCkl) * 8)).map pins =
      busShift c r.fb[j] := by
  have bits : ∀ i, i + 1 < 8 →
      (stepRender c)^[c.tDsu + c.tCkh + c.tCkl] (r.bitStart c j i) = r.bitStart c j (i + 1) :=
    fun i hi => iterate_stepRender_bit c i op legal (Nat.lt_of_succ_lt_succ hi)
  rw [enter_byte_eq_bitStart c j clock, listIterate_mul_of_stages bits, List.map_flatMap, busShift_eq_flatMap]
  exact congrArg (List.flatMap · _) (funext fun i => pins_bit c i op legal strobe)

/-- Settles O40: bit by bit and part by part the shifter runs the primitive; this hardware's bit has twelve ticks. -/
theorem bitShifterIsBusShift : Obligations.BitShifterIsBusShift := by
  refine ⟨fun c r j legal op strobe clock => ?_, fun b => ⟨length_busShift hardware b, fun i x hi hx => ?_⟩⟩
  · rw [Nat.mul_comm, ← Regs.pins_byte c legal op strobe clock, ← List.range_map_iterate, List.map_map]
    rfl
  · exact (getElem?_flatMap_range (length_bitLevels hardware b) hi hx).trans (getElem?_bitLevels_hardware b i hx)

end Sys2Proof.Machine
end

section
/-! The blink-delay mapping (44_blink.md R210 and R211): its value on each bucket, and that a farther distance never
blinks faster. -/

namespace Sys2Proof.Machine

/-- The buckets with both their ends (44_blink.md R210): the bounds the model tests are those `x` has passed, and then
the upper end of its own. -/
theorem blinkDelay_buckets (x : Nat) :
    (x ≤ 2 → blinkDelay x = 50) ∧ (3 ≤ x → x ≤ 4 → blinkDelay x = 100) ∧
    (5 ≤ x → x ≤ 8 → blinkDelay x = 200) ∧ (9 ≤ x → x ≤ 16 → blinkDelay x = 400) ∧
    (17 ≤ x → x ≤ 32 → blinkDelay x = 700) ∧ (33 ≤ x → blinkDelay x = 1000) := by
  unfold blinkDelay
  refine ⟨fun hi => if_pos hi, fun lo hi => ?_, fun lo hi => ?_, fun lo hi => ?_, fun lo hi => ?_, fun lo => ?_⟩
  · rw [if_neg (by omega), if_pos hi]
  · rw [if_neg (by omega), if_neg (by omega), if_pos hi]
  · rw [if_neg (by omega), if_neg (by omega), if_neg (by omega), if_pos hi]
  · rw [if_neg (by omega), if_neg (by omega), if_neg (by omega), if_neg (by omega), if_pos hi]
  · rw [if_neg (by omega), if_neg (by omega), if_neg (by omega), if_neg (by omega), if_neg (by omega)]

/-- A first bucket put below a monotonic function keeps it monotonic when its value is no larger than the function's
least, the one at 0. -/
theorem monotone_ite_le {f : Nat → Nat} {bound value : Nat} (mono : Monotone f) (least : value ≤ f 0) :
    Monotone fun x => if x ≤ bound then value else f x := by
  intro x y le
  dsimp only
  split_ifs with hx hy hy
  · exact le_rfl
  · exact least.trans (mono y.zero_le)
  · exact absurd (le.trans hy) hx
  · exact mono le

/-- From the last bucket down, each is put below the ones after it. -/
theorem blinkDelay_monotone : Monotone blinkDelay := by
  have from17 : Monotone fun x => if x ≤ 32 then 700 else 1000 := monotone_ite_le monotone_const (by decide)
  have from9 := monotone_ite_le (bound := 16) (value := 400) from17 (by decide)
  have from5 := monotone_ite_le (bound := 8) (value := 200) from9 (by decide)
  have from3 := monotone_ite_le (bound := 4) (value := 100) from5 (by decide)
  exact monotone_ite_le from3 (by decide)

/-- Settles O55: the buckets, the order between them, and the listed values by evaluation. -/
theorem blinkDelayBuckets : Obligations.BlinkDelayBuckets :=
  ⟨blinkDelay_buckets, fun _ _ le => blinkDelay_monotone le, by decide⟩

end Sys2Proof.Machine
end

section
/-! RESET_STATE (70_reset_and_hazards.md R251): the two register arrays, the outputs, and the invariants it meets with
both engines idle. -/

namespace Sys2Proof.Machine

/-- Every position is BLANK. -/
theorem Regs.reset_digit : ∀ i : Fin 4, Regs.reset.digit[i] = 0xF := by decide

/-- The frame buffer is all zero. -/
theorem Regs.reset_fb : ∀ j : Fin 10, Regs.reset.fb[j] = 0x00 := by decide

/-- The idle levels of the two protocols, and the blink time of distance 0 (44_blink.md R212). -/
theorem Regs.reset_outputs : Regs.reset.outputs = {
    trig := false, stb := true, dclk := false, dio := false, busy := false, mdone := false,
    rdone := false, dist := 0, dur := 0, blinkMs := 50 } := by decide

/-- With the engine idle and every count 0 the bounds hold, and no clause about a running measurement applies. -/
theorem Regs.reset_timerInv : Regs.reset.TimerInv where
  trigIff := by decide
  tcntZero := fun _ => rfl
  distEq := rfl
  durLe := Nat.zero_le _
  distLe := Nat.zero_le _
  wcntLe := Nat.zero_le _
  dcntLe := Nat.zero_le _
  riseCounts := nofun
  fallCount := nofun
  mdoneIdle := fun _ => rfl
  tcntLe := Nat.zero_le _
  triggerCounts := nofun

/-- The idle pins are at their levels and no frame has been loaded; the clauses about a running frame do not apply. -/
theorem Regs.reset_serializerInv : Regs.reset.SerializerInv where
  idlePins := fun _ => ⟨rfl, rfl, rfl, rfl⟩
  clockHigh := nofun
  frameRegs := .inr ⟨rfl, rfl, rfl, rfl, rfl⟩
  rdoneIdle := fun _ => rfl
  strobeLevel := nofun
  clockIff := nofun
  holdLe := nofun
  dataLevel := nofun

/-- The invariants of 10_state.md R48 hold in RESET_STATE, and with them what makes them inductive. -/
theorem Regs.reset_inv : Regs.reset.Inv where
  oneEngine := fun _ => rfl
  timer := Regs.reset_timerInv
  serializer := Regs.reset_serializerInv

/-- Settles O17: the plain fields are those of the definition; the arrays, the outputs and the invariants have their own
lemmas. -/
theorem resetStateIsAsListed : Obligations.ResetStateIsAsListed :=
  ⟨rfl, rfl, rfl, rfl, rfl, rfl, rfl, rfl, rfl, rfl, Regs.reset_digit, Regs.reset_fb,
    rfl, rfl, rfl, rfl, rfl, rfl, rfl, rfl, rfl, Regs.reset_outputs, Regs.reset_inv⟩

end Sys2Proof.Machine
end

section
/-! Decode and encode (30_encoding.md R90 to R94, R99, R103): each direction of the round trip, and that every byte of a
frame is a row of the table in the slot it is read in. -/

namespace Sys2Proof

/-- In the slot it may stand in, an instruction decodes from its own word: by its `op` field on the port, by its row on
the bus. -/
theorem decode_encode {slot : Slot} {i : Instr} (legal : i.wellFormed slot = true) : decode slot (encode i) = .ok i := by
  cases i <;> obtain rfl := of_decide_eq_true legal
  case nop a => exact congrArg Except.ok (decodeCW_append_nop a)
  case measure a => exact congrArg Except.ok (decodeCW_append_measure a)
  case render a => exact congrArg Except.ok (decodeCW_append_render a)
  case rsvd3 a => exact congrArg Except.ok (decodeCW_append_rsvd3 a)
  all_goals rfl

/-- A command word is its `op` field above its `arg` field (30_encoding.md R90). -/
theorem append_fields {w : CmdWord} {op : BitVec 2} (h : w.extractLsb' 16 2 = op) : op ++ w.extractLsb' 0 16 = w := by
  subst h
  exact (BitVec.extractLsb'_append_extractLsb'_eq_extractLsb' (start₂ := 16) (start₁ := 0) (len₁ := 16) rfl).trans
    BitVec.extractLsb'_eq_self

/-- No bit of a command word is lost in decoding it (30_encoding.md R94). -/
theorem encode_decodeCW (w : CmdWord) : encode (decodeCW w) = .cw w := by
  have opCases : ∀ op : BitVec 2, op = 0b00#2 ∨ op = 0b01#2 ∨ op = 0b10#2 ∨ op = 0b11#2 := by decide
  rcases opCases (w.extractLsb' 16 2) with op | op | op | op
  · rw [decodeCW_of_op_nop op]; exact congrArg Code.cw (append_fields op)
  · rw [decodeCW_of_op_measure op]; exact congrArg Code.cw (append_fields op)
  · rw [decodeCW_of_op_render op]; exact congrArg Code.cw (append_fields op)
  · rw [decodeCW_of_op_rsvd3 op]; exact congrArg Code.cw (append_fields op)

theorem encode_commandRows : ∀ row ∈ commandRows, encode row.2 = .bus8 row.1 := by decide

theorem encode_patternRows : ∀ row ∈ patternRows, encode row.2 = .bus8 row.1 := by decide

/-- A lookup that answers has found a row. -/
theorem lookupRow_of_elim_ok {b : Byte} {i : Instr} {e : Reject} {rows : List (Byte × Instr)}
    (h : (lookupRow b rows).elim (.error e) .ok = (.ok i : Except Reject Instr)) : lookupRow b rows = some i := by
  cases found : lookupRow b rows with
  | none => rw [found] at h; cases h
  | some k => rw [found] at h; cases h; rfl

/-- A byte that decodes on the bus is the word of its row. -/
theorem encode_of_decodeBus {slot : Slot} {b : Byte} {i : Instr} (h : decodeBus slot b = .ok i) :
    encode i = .bus8 b := by
  cases slot with
  | port => cases h
  | first => exact encode_commandRows _ (Machine.lookupRow_mem (lookupRow_of_elim_ok h))
  | pattern => exact encode_patternRows _ (Machine.lookupRow_mem (lookupRow_of_elim_ok h))
  | dummy =>
    by_cases zero : b = 0x00#8
    · rw [decodeBus, if_pos zero] at h
      cases h
      rw [zero]
      rfl
    · rw [decodeBus, if_neg zero] at h
      cases h

/-- What decodes is its own encoding, in a slot it may stand in. -/
theorem encode_of_decode {slot : Slot} {code : Code} {i : Instr} (h : decode slot code = .ok i) :
    encode i = code ∧ i.wellFormed slot = true := by
  cases code with
  | cw w =>
    by_cases port : slot = .port
    · subst port
      obtain rfl : decodeCW w = i := Except.ok.inj h
      exact ⟨encode_decodeCW w, Machine.decodeCW_wellFormed w⟩
    · rw [decode, if_neg port] at h
      cases h
  | bus8 b => exact ⟨encode_of_decodeBus h, (Machine.decodeBus_wellFormed h).2⟩

/-- Settles O1. -/
theorem decodeOfEncode : Obligations.DecodeOfEncode := fun _ _ => decode_encode

/-- Settles O2. -/
theorem encodeOfDecode : Obligations.EncodeOfDecode := fun _ _ _ => encode_of_decode

/-- Settles O4: ten written-out words, which the decoder evaluates. -/
theorem writtenWordsDecode : Obligations.WrittenWordsDecode := by
  unfold Obligations.WrittenWordsDecode
  decide

namespace Machine

/-- Every pattern `seg` gives is a pattern row of the table, for all sixteen codes (42_digits.md R165, R166). -/
theorem decode_pattern_seg (e : DigitCode) : (decode .pattern (.bus8 (seg hardware e))).isOk = true := by
  revert e
  decide

/-- A frame byte is a row of the table in its slot: command bytes and zeros by their value, patterns as `seg` gives
them. -/
theorem decode_frameByte (B : Vector DigitCode 4) (j : Fin 10) :
    (decode (frameSlot j) (.bus8 (frame hardware B)[j])).isOk = true := by
  match j with
  | 0 | 1 | 3 | 5 | 7 | 9 => rfl
  | 2 => exact decode_pattern_seg B[0]
  | 4 => exact decode_pattern_seg B[1]
  | 6 => exact decode_pattern_seg B[2]
  | 8 => exact decode_pattern_seg B[3]

/-- Settles O5: each byte decodes in its slot, and what decodes is its own encoding. -/
theorem frameBytesAreTableRows : Obligations.FrameBytesAreTableRows := by
  intro v j
  cases decoded : decode (frameSlot j) (.bus8 (frame hardware (split v))[j]) with
  | error e => exact absurd (decode_frameByte (split v) j) (by rw [decoded]; exact Bool.false_ne_true)
  | ok i =>
    obtain ⟨word, legal⟩ := encode_of_decode decoded
    exact ⟨i, legal, word, rfl⟩

end Machine

end Sys2Proof
end

section
/-! Which branch a tick takes, said once (40_command.md R120): every case of the step rule with the condition under which
it is taken, and what the machine's step makes of it. -/

namespace Sys2Proof.Machine

/-! ### The step rule, case by case -/

section
variable {r : Regs} {i : Inputs}

/-- Not BUSY is both engines idle (10_state.md R41). -/
theorem Regs.busy_eq_false_iff (r : Regs) : r.busy = false ↔ r.mph = .idle ∧ r.rbusy = false := by
  rw [← Bool.not_eq_true, r.busy_iff, not_or, not_not, Bool.not_eq_true]

theorem Regs.step_of_rst (rst : i.rst = true) : r.step i = Regs.reset := if_pos rst

theorem Regs.step_of_timing (rst : i.rst = false) (timing : r.mph ≠ .idle) : r.step i = r.stepMeasure i.echo := by
  simp only [step, rst, Bool.false_eq_true, if_false, if_pos timing]

theorem Regs.step_of_sending (rst : i.rst = false) (timer : r.mph = .idle) (sending : r.rbusy = true) :
    r.step i = r.stepRender hardware := by
  simp only [step, rst, Bool.false_eq_true, if_false, timer, ne_eq, not_true_eq_false, if_pos sending]

theorem Regs.step_of_acceptsMeasure (h : r.AcceptsMeasure i) : r.step i = r.startMeasure := by
  obtain ⟨idle, rst, offered, op⟩ := h
  obtain ⟨timer, serializer⟩ := r.busy_eq_false_iff.mp idle
  simp only [step, rst, timer, serializer, offered, op, Bool.false_eq_true, if_false, if_true, ne_eq,
    not_true_eq_false]

theorem Regs.step_of_acceptsRender {v : Arg} (h : r.AcceptsRender i v) : r.step i = r.startRender hardware v := by
  obtain ⟨idle, rst, offered, word⟩ := h
  obtain ⟨timer, serializer⟩ := r.busy_eq_false_iff.mp idle
  have op : i.cmdWord.extractLsb' 16 2 = 0b10#2 := by rw [word, extractOp_append]
  have arg : i.cmdWord.extractLsb' 0 16 = v := by rw [word, extractArg_append]
  have notMeasure : ¬0b10#2 = 0b01#2 := by decide
  simp only [step, rst, timer, serializer, offered, op, arg, if_neg notMeasure, Bool.false_eq_true, if_false, if_true,
    ne_eq, not_true_eq_false]

theorem Regs.step_of_nothing_offered (idle : r.busy = false) (rst : i.rst = false) (quiet : i.cmdValid = false) :
    r.step i = r := by
  obtain ⟨timer, serializer⟩ := r.busy_eq_false_iff.mp idle
  simp only [step, rst, timer, serializer, quiet, Bool.false_eq_true, if_false, ne_eq, not_true_eq_false]

/-- Everything a tick of CORE can do: the six branches of the step rule. -/
theorem Regs.step_cases (r : Regs) (i : Inputs) :
    (i.rst = true ∧ r.step i = Regs.reset) ∨
    (i.rst = false ∧ r.mph ≠ .idle ∧ r.step i = r.stepMeasure i.echo) ∨
    (i.rst = false ∧ r.mph = .idle ∧ r.rbusy = true ∧ r.step i = r.stepRender hardware) ∨
    (r.AcceptsMeasure i ∧ r.step i = r.startMeasure) ∨
    (∃ v, r.AcceptsRender i v ∧ r.step i = r.startRender hardware v) ∨
    (i.rst = false ∧ r.busy = false ∧ r.step i = r) := by
  cases rst : i.rst with
  | true => exact .inl ⟨rfl, step_of_rst rst⟩
  | false =>
    by_cases timer : r.mph = .idle
    case neg => exact .inr (.inl ⟨rfl, timer, step_of_timing rst timer⟩)
    cases sending : r.rbusy with
    | true => exact .inr (.inr (.inl ⟨rfl, timer, rfl, step_of_sending rst timer sending⟩))
    | false =>
      have idle : r.busy = false := r.busy_eq_false_iff.mpr ⟨timer, sending⟩
      cases offered : i.cmdValid with
      | false => exact .inr (.inr (.inr (.inr (.inr ⟨rfl, idle, step_of_nothing_offered idle rst offered⟩))))
      | true =>
        by_cases measure : i.cmdWord.extractLsb' 16 2 = 0b01#2
        · have accepts : r.AcceptsMeasure i := ⟨idle, rst, offered, measure⟩
          exact .inr (.inr (.inr (.inl ⟨accepts, step_of_acceptsMeasure accepts⟩)))
        by_cases render : i.cmdWord.extractLsb' 16 2 = 0b10#2
        · have accepts : r.AcceptsRender i (i.cmdWord.extractLsb' 0 16) :=
            ⟨idle, rst, offered, (append_fields render).symm⟩
          exact .inr (.inr (.inr (.inr (.inl ⟨_, accepts, step_of_acceptsRender accepts⟩))))
        · refine .inr (.inr (.inr (.inr (.inr ⟨rfl, idle, ?_⟩))))
          simp only [step, rst, timer, sending, if_neg measure, if_neg render, Bool.false_eq_true, if_false, ne_eq,
            not_true_eq_false, ite_self]

end

/-! ### The machine's step -/

/-- CORE's part of a step is the step rule on the sampled inputs. -/
theorem core_of_step {s t : State} (h : step s = .next t) : t.core = s.core.step s.sample := by
  obtain ⟨u, stepped, core, -⟩ := stepFollowsTheStepRule s
  obtain rfl : u = t := Host.Outcome.next.inj (stepped.symm.trans h)
  exact core

/-- Input records on which CORE steps alike are alike to the machine: the display sink reads the pins only. -/
theorem step_congr_inputs {s : State} {i j : Inputs} (rest : List Inputs) (h : s.core.step i = s.core.step j) :
    step { s with inputs := i :: rest } = step { s with inputs := j :: rest } := by
  simp only [step_eq_deliver, State.sample_cons, h]
  rfl

/-- A tick in which no byte completes and no transaction commits moves only the receiver and what a cut loses. -/
theorem deliver_of_quiet {p : Pins} {s : State} (received : s.disp.rx.received p s.core.pins = none)
    (committed : s.disp.rx.committed p s.core.pins = none) : deliver p s = .next (s.watch p s.core.pins) := by
  simp only [deliver, received, committed]

theorem deliver_of_received {p : Pins} {s : State} {slot : Slot} {b : Byte}
    (h : s.disp.rx.received p s.core.pins = some (slot, b)) :
    deliver p s = arrive slot b (s.watch p s.core.pins) := by
  simp only [deliver, h]

/-- With the strobe up at the end of the tick no byte completes, so a committed transaction is run. -/
theorem deliver_of_committed {p : Pins} {s : State} {bs : List Byte} (up : s.core.stb = true)
    (h : s.disp.rx.committed p s.core.pins = some bs) : deliver p s = commit bs (s.watch p s.core.pins) := by
  simp only [deliver, Receiver.received_none_of_rise p s.core.pins s.disp.rx up, h]

/-- The strobe's rise after whole bytes commits the open transaction (20_memory.md R75). -/
theorem Receiver.committed_of_rise {p q : Pins} {rx : Receiver} (low : p.stb = false) (up : q.stb = true)
    (whole : rx.bits = []) : rx.committed p q = rx.trans := by
  simp [committed, low, up, whole]

/-! ### The statements about one step of the machine -/

/-- Settles O10: NOP and RSVD3 give the state back; MEASURE and RENDER write the fields of `Regs.startMeasure_eq` and
`Regs.startRender_eq`. -/
theorem commandWordFrame : Obligations.CommandWordFrame := by
  intro a s t
  rw [exec_nop, exec_rsvd3, exec_measure, exec_render, Regs.startMeasure_eq, Regs.startRender_eq]
  refine ⟨?_, ?_, ?_, ?_⟩
  · rintro (⟨⟨⟩⟩ | ⟨⟨⟩⟩) <;> rfl
  · rintro ⟨⟩
    exact ⟨rfl, rfl, rfl, rfl, rfl, rfl, rfl, rfl, rfl, rfl, rfl, rfl, rfl, rfl⟩
  · rintro ⟨⟩
    exact ⟨rfl, rfl, rfl, rfl, rfl, rfl, rfl, rfl, rfl, rfl, rfl, rfl⟩
  · rintro (⟨⟨⟩⟩ | ⟨⟨⟩⟩ | ⟨⟨⟩⟩ | ⟨⟨⟩⟩) <;> exact ⟨rfl, rfl, rfl, rfl, rfl, rfl, rfl, fun _ => ⟨rfl, rfl⟩⟩

/-- Settles O11: a command word neither moves the clock nor raises the strobe, so the sink only looks. -/
theorem stepRunsTheAcceptedCommand : Obligations.StepRunsTheAcceptedCommand := by
  intro s i idle rst offered decoded
  obtain rfl : decodeCW s.sample.cmdWord = i := Except.ok.inj decoded
  obtain ⟨r, ran, clock, strobe⟩ := exec_port _ (decodeCW_wellFormed s.sample.cmdWord) s.consume
  refine ⟨_, ran, ?_⟩
  rw [step, turn_accept idle rst offered, runTurn, ran, andThen_next]
  refine deliver_of_quiet (Receiver.received_none_of_clock _ _ _ ?_) (Receiver.committed_none _ _ _ strobe)
  rw [Regs.pins_dclk, Regs.pins_dclk, clock]
  exact (Bool.eq_false_or_eq_true s.core.dclk).symm

/-- Settles O12. -/
theorem stepRunsTheArrivedByte : Obligations.StepRunsTheArrivedByte := by
  intro s u slot b i branch received decoded
  rw [step, branch, andThen_next, deliver_of_received received, arrive, decoded]
  exact ⟨fun acts => if_neg (Bool.eq_false_iff.mp acts), fun waits => if_pos waits⟩

/-- Settles O57: the transaction has no data, so nothing is latched before the row is run. -/
theorem stepRunsTheCommittedCommand : Obligations.StepRunsTheCommittedCommand := by
  intro s u b i branch low up whole opened decoded waits
  have committed : u.disp.rx.committed s.core.pins u.core.pins = some [b] :=
    (Receiver.committed_of_rise low up whole).trans opened
  rw [step, branch, andThen_next, deliver_of_committed up committed, commit, decoded]
  exact if_pos waits

/-- Settles O14. -/
theorem idleWithoutCommandStays : Obligations.IdleWithoutCommandStays := by
  intro s idle rst quiet
  rw [step_eq_deliver, Regs.step_of_nothing_offered idle rst quiet]
  exact deliver_same _ _ rfl

/-- Settles O18. -/
theorem resetWins : Obligations.ResetWins := by
  intro s rst
  obtain ⟨t, stepped, core, -⟩ := stepFollowsTheStepRule s
  exact ⟨t, stepped, core.trans (Regs.step_of_rst rst)⟩

/-- Settles O45: the serializer's tick reads no input. -/
theorem runningFrameIgnoresInputs : Obligations.RunningFrameIgnoresInputs := by
  intro s i j rest timer sending resetI resetJ
  refine step_congr_inputs rest ?_
  rw [Regs.step_of_sending resetI timer sending, Regs.step_of_sending resetJ timer sending]

/-- Only the two polling phases read `echo` (41_measure.md section 8). -/
theorem Regs.stepMeasure_echo {r : Regs} (notRise : r.mph ≠ .waitRise) (notFall : r.mph ≠ .waitFall) (e f : Bool) :
    r.stepMeasure e = r.stepMeasure f := by
  cases phase : r.mph with
  | idle => simp only [stepMeasure, phase]
  | trigger => rw [stepMeasure_of_trigger phase, stepMeasure_of_trigger phase]
  | waitRise => exact absurd phase notRise
  | waitFall => exact absurd phase notFall

/-- Settles O26: of the branches of the step rule only the timer's reads `echo`. -/
theorem echoIgnoredOutsidePolling : Obligations.EchoIgnoredOutsidePolling := by
  intro s i rest e notRise notFall
  refine step_congr_inputs rest ?_
  unfold Regs.step
  rw [Regs.stepMeasure_echo notRise notFall i.echo e]

/-! ### Flags and results -/

/-- The end of a frame is the only event of the serializer that sets `RDONE` or clears `RBUSY` (43_serialize.md R190). -/
theorem Regs.nextOp_done (c : Config) (r : Regs) :
    ((r.nextOp c).rbusy = r.rbusy ∧ (r.nextOp c).rdone = r.rdone) ∨
    ((r.nextOp c).rbusy = false ∧ (r.nextOp c).rdone = true) := by
  rcases r.nextOp_cases c with ⟨-, h⟩ | ⟨-, h⟩ <;> rw [h]
  · exact .inr ⟨rfl, rfl⟩
  · obtain ⟨-, -, -, -, busy, -, -, done⟩ :=
      ({ r with rseq := r.rseq + 1 } : Regs).enter_keeps c (microOp (r.rseq + 1))
    exact .inl ⟨busy, done⟩

theorem Regs.stepRender_done (c : Config) (r : Regs) :
    ((r.stepRender c).rbusy = r.rbusy ∧ (r.stepRender c).rdone = r.rdone) ∨
    ((r.stepRender c).rbusy = false ∧ (r.stepRender c).rdone = true) := by
  rcases r.stepRender_cases c with ⟨-, h⟩ | ⟨-, -, h⟩ | ⟨_, -, -, -, h⟩ | ⟨_, -, -, -, h⟩ | ⟨_, -, -, -, -, h⟩ |
    ⟨_, -, -, -, -, h⟩ <;> rw [h]
  · exact .inl ⟨rfl, rfl⟩
  · exact r.nextOp_done c
  · exact .inl ⟨rfl, rfl⟩
  · exact .inl ⟨rfl, rfl⟩
  · exact r.nextOp_done c
  · exact .inl ⟨rfl, rfl⟩

/-- A busy timer finishes, with its count as the result, or goes on with flag and results as they were; it does not go
back to the trigger (41_measure.md R137 to R142). -/
theorem Regs.stepMeasure_result (echo : Bool) {r : Regs} (timing : r.mph ≠ .idle) :
    (r.mph = .waitFall ∧ (r.stepMeasure echo).mph = .idle ∧ ∃ d, r.stepMeasure echo = r.finish d) ∨
    ((r.stepMeasure echo).mph ≠ .idle ∧ (r.stepMeasure echo).mdone = r.mdone ∧
      (r.stepMeasure echo).dur = r.dur ∧ (r.stepMeasure echo).dist = r.dist) := by
  rcases r.stepMeasure_cases echo with ⟨idle, -⟩ | ⟨-, -, h⟩ | ⟨p, -, h⟩ | ⟨-, -, h⟩ | ⟨-, -, -, h⟩ | ⟨p, -, -, h⟩ |
    ⟨p, -, h⟩ | ⟨p, -, -, h⟩ | ⟨p, -, -, h⟩
  · exact absurd idle timing
  case inr.inr.inr.inr.inr.inr.inl => exact .inl ⟨p, by rw [h]; rfl, _, h⟩
  case inr.inr.inr.inr.inr.inr.inr.inl => exact .inl ⟨p, by rw [h]; rfl, _, h⟩
  all_goals
    rw [h]
    exact .inr ⟨by simp_all, rfl, rfl, rfl⟩

/-- The result of a finishing step is the count and its distance (41_measure.md R142). -/
theorem Regs.finish_result (d : BitVec 15) (r : Regs) : (r.finish d).mdone = true ∧ (r.finish d).dur = (r.finish d).dcnt ∧
    (r.finish d).dist.toNat = (r.finish d).dur.toNat / 58 := by
  refine ⟨rfl, rfl, ?_⟩
  show (BitVec.ofNat 16 (d.toNat / 58)).toNat = d.toNat / 58
  have := d.isLt
  rw [BitVec.toNat_ofNat, Nat.mod_eq_of_lt]
  omega

/-- Settles O16: branch by branch; each flag has one event that sets it and one that clears it. -/
theorem doneFlagsAreSticky : Obligations.DoneFlagsAreSticky := by
  intro s t stepped rst
  rw [core_of_step stepped]
  rcases s.core.step_cases s.sample with ⟨reset, -⟩ | ⟨-, timing, h⟩ | ⟨-, timer, sending, h⟩ | ⟨⟨idle, -⟩, h⟩ |
    ⟨v, ⟨idle, -⟩, h⟩ | ⟨-, idle, h⟩
  · exact absurd (rst.symm.trans reset) Bool.false_ne_true
  · have same := s.core.stepMeasure_sameSerializer s.sample.echo
    rw [h, same.rdone, same.rbusy]
    rcases Regs.stepMeasure_result s.sample.echo timing with ⟨fall, done, d, eq⟩ | ⟨going, flag, -⟩
    · have set : (s.core.stepMeasure s.sample.echo).mdone = true := by rw [eq]; exact (s.core.finish_result d).1
      cases s.core.rbusy <;> simp [fall, done, set]
    · cases s.core.rbusy <;> simp [timing, going, flag]
  · obtain ⟨same, -⟩ := s.core.stepRender_keeps hardware
    rw [h, same.mdone, same.mph]
    rcases s.core.stepRender_done hardware with ⟨busy, done⟩ | ⟨busy, done⟩ <;> simp [timer, sending, busy, done]
  · obtain ⟨timer, serializer⟩ := s.core.busy_eq_false_iff.mp idle
    rw [h, Regs.startMeasure_eq]
    simp [timer, serializer]
  · obtain ⟨timer, serializer⟩ := s.core.busy_eq_false_iff.mp idle
    rw [h, Regs.startRender_eq]
    simp [timer, serializer]
  · obtain ⟨timer, serializer⟩ := s.core.busy_eq_false_iff.mp idle
    rw [h]
    simp [timer, serializer]

/-- Settles O27: of the branches only the timer's writes the results, in its finishing step. -/
theorem resultsChangeOnlyAtTheFinish : Obligations.ResultsChangeOnlyAtTheFinish := by
  intro s t stepped rst
  rw [core_of_step stepped]
  by_cases timing : s.core.mph = .idle
  · have notFall : s.core.mph ≠ .waitFall := by rw [timing]; decide
    refine ⟨fun _ => ?_, fun finishing => absurd finishing.1 notFall⟩
    rcases s.core.step_cases s.sample with ⟨reset, -⟩ | ⟨-, busy, -⟩ | ⟨-, -, -, h⟩ | ⟨-, h⟩ | ⟨v, -, h⟩ | ⟨-, -, h⟩
    · exact absurd (rst.symm.trans reset) Bool.false_ne_true
    · exact absurd timing busy
    · obtain ⟨same, -⟩ := s.core.stepRender_keeps hardware
      rw [h]
      exact ⟨same.dur, same.dist⟩
    all_goals rw [h]; exact ⟨rfl, rfl⟩
  · rw [Regs.step_of_timing rst timing]
    rcases Regs.stepMeasure_result s.sample.echo timing with ⟨fall, done, d, eq⟩ | ⟨going, -, dur, dist⟩
    · exact ⟨fun not => absurd ⟨fall, done⟩ not, fun _ => by rw [eq]; exact s.core.finish_result d⟩
    · exact ⟨fun _ => ⟨dur, dist⟩, fun finishing => absurd finishing.2 going⟩

end Sys2Proof.Machine
end

section
/-! The invariants of CORE are kept by every step (10_state.md section 11), and what they say of the pins. -/

namespace Sys2Proof.Machine

/-! ### The timer's clauses -/

/-- A count below its last value goes one up. -/
theorem toNat_add_one {w : Nat} {x : BitVec w} {n : Nat} (le : x.toNat ≤ n) (ne : x.toNat ≠ n) (fits : n < 2 ^ w) :
    (x + 1).toNat = x.toNat + 1 := by
  have one : (1 : BitVec w).toNat = 1 := BitVec.toNat_one (Nat.pos_of_ne_zero fun zero => by subst zero; omega)
  rw [BitVec.toNat_add_of_lt (by omega), one]

theorem Regs.TimerInv.stepMeasure {r : Regs} (h : r.TimerInv) (echo : Bool) : (r.stepMeasure echo).TimerInv := by
  have inv := h
  obtain ⟨trigIff, tcntZero, distEq, durLe, distLe, wcntLe, dcntLe, riseCounts, fallCount, mdoneIdle, tcntLe,
    triggerCounts⟩ := h
  rcases r.stepMeasure_cases echo with ⟨-, eq⟩ | ⟨p, last, eq⟩ | ⟨p, more, eq⟩ | ⟨p, -, eq⟩ | ⟨p, -, last, eq⟩ |
    ⟨p, -, more, eq⟩ | ⟨p, -, eq⟩ | ⟨p, -, last, eq⟩ | ⟨p, -, more, eq⟩ <;> rw [eq]
  · exact inv
  · constructor <;> simp_all
  · have := toNat_add_one tcntLe more (by decide)
    constructor <;> simp_all
    omega
  · constructor <;> simp_all
  · constructor <;> simp_all
  · have := toNat_add_one (riseCounts p).2 more (by decide)
    constructor <;> simp_all
    · omega
    · omega
  · exact inv.finish p _ dcntLe
  · exact inv.finish p _ (by decide)
  · have := toNat_add_one (fallCount p) more (by decide)
    constructor <;> simp_all
    · omega
    · omega

/-! ### The serializer's clauses -/

theorem Regs.SerializerInv.stepRender {r : Regs} (h : r.SerializerInv) (sending : r.rbusy = true) :
    (r.stepRender hardware).SerializerInv := by
  have inv := h
  have loaded : (r.stepRender hardware).FrameLoaded :=
    have ⟨_, val, digit, fb⟩ := r.stepRender_keeps hardware
    (h.loaded sending).of_same val digit fb
  have notDone : r.rdone = false := by
    cases done : r.rdone
    · rfl
    · exact absurd (h.rdoneIdle done) (by rw [sending]; decide)
  have strobe := h.strobeLevel sending
  have clock := h.clockIff sending
  have held := h.holdLe sending
  have data := h.dataLevel sending
  rcases r.stepRender_cases hardware with ⟨more, eq⟩ | ⟨ended, noByte, eq⟩ | ⟨j, -, op, sub, eq⟩ | ⟨j, -, op, sub, eq⟩ |
    ⟨j, ended, op, sub, -, eq⟩ | ⟨j, -, op, sub, notLast, eq⟩ <;> rw [eq] at loaded ⊢
  · have less : (r.hold - 1).toNat ≤ r.hold.toNat := by
      have pos : 1 ≤ r.hold := by bv_omega
      rw [BitVec.toNat_sub_of_le pos]
      omega
    exact {
      idlePins := fun idle => absurd (sending.symm.trans idle) (by decide)
      clockHigh := h.clockHigh
      frameRegs := .inl loaded
      rdoneIdle := h.rdoneIdle
      strobeLevel := h.strobeLevel
      clockIff := h.clockIff
      holdLe := fun _ => less.trans held
      dataLevel := h.dataLevel }
  · exact inv.nextOp sending ended (inv.clockLow sending (.inl noByte))
  · constructor <;> simp_all [MicroOp.strobe, MicroOp.sends, MicroOp.longestHold, hardware]
  · constructor <;> simp_all [MicroOp.strobe, MicroOp.sends, MicroOp.longestHold, hardware]
  · exact inv.nextOp sending ended (inv.clockLow sending (.inr (by rw [sub]; decide)))
  · have more : r.bitix.toNat ≠ 7 := fun last => notLast (BitVec.eq_of_toNat_eq last)
    constructor <;> simp_all [MicroOp.strobe, MicroOp.sends, MicroOp.longestHold, hardware]
    rintro _ rfl
    rw [Nat.mod_eq_of_lt (by omega)]

/-! ### CORE as a whole -/

theorem Regs.startMeasure_sameSerializer (r : Regs) : r.SameSerializer r.startMeasure :=
  ⟨rfl, rfl, rfl, rfl, rfl, rfl, rfl, rfl, rfl, rfl, rfl, rfl⟩

theorem Regs.startRender_sameTimer (c : Config) (v : Arg) (r : Regs) : r.SameTimer (r.startRender c v) :=
  ⟨rfl, rfl, rfl, rfl, rfl, rfl, rfl, rfl⟩

/-- Settles O48: nothing is sent in RESET_STATE and the receiver has nothing open. -/
theorem invariantHoldsAtReset : Obligations.InvariantHoldsAtReset :=
  ⟨Regs.reset_inv, ⟨Memory.wf_nil, Memory.wf_nil⟩, rfl, rfl⟩

/-- Settles O49: in each branch the engine that moves keeps its invariant, and the other one's fields stay. -/
theorem stepKeepsTheCoreInvariant : Obligations.StepKeepsTheCoreInvariant := by
  intro r i inv
  rcases r.step_cases i with ⟨-, h⟩ | ⟨-, timing, h⟩ | ⟨-, timer, sending, h⟩ | ⟨⟨idle, -⟩, h⟩ | ⟨v, ⟨idle, -⟩, h⟩ |
    ⟨-, -, h⟩ <;> rw [h]
  · exact Regs.reset_inv
  · have same := r.stepMeasure_sameSerializer i.echo
    exact ⟨fun _ => same.rbusy.trans (inv.oneEngine timing), inv.timer.stepMeasure i.echo, inv.serializer.of_same same⟩
  · obtain ⟨same, -⟩ := r.stepRender_keeps hardware
    exact ⟨fun busy => absurd (same.mph.trans timer) busy, inv.timer.of_same same, inv.serializer.stepRender sending⟩
  · obtain ⟨-, serializer⟩ := r.busy_eq_false_iff.mp idle
    exact ⟨fun _ => serializer, inv.timer.startMeasure, inv.serializer.of_same r.startMeasure_sameSerializer⟩
  · obtain ⟨timer, serializer⟩ := r.busy_eq_false_iff.mp idle
    obtain ⟨-, clock, -⟩ := inv.serializer.idlePins serializer
    exact ⟨fun busy => absurd timer busy, inv.timer.of_same (r.startRender_sameTimer hardware v),
      r.startRender_serializerInv clock v⟩
  · exact inv

/-! ### The display pins -/

theorem Regs.SameSerializer.pins {r t : Regs} (h : r.SameSerializer t) : t.pins = r.pins := by
  simp only [Regs.pins, h.stb, h.dclk, h.dio]

/-- A tick of a running frame moves the clock alone, or moves other pins with the clock low. -/
theorem Regs.SerializerInv.stepRender_pins {r : Regs} (h : r.SerializerInv) (sending : r.rbusy = true) :
    ((r.stepRender hardware).stb = r.stb ∧ (r.stepRender hardware).dio = r.dio) ∨
    (r.dclk = false ∧ (r.stepRender hardware).dclk = false) := by
  obtain ⟨-, -, -, -, clock⟩ := r.nextOp_keeps hardware
  rcases r.stepRender_cases hardware with ⟨-, eq⟩ | ⟨-, noByte, eq⟩ | ⟨_, -, -, -, eq⟩ | ⟨_, -, -, -, eq⟩ |
    ⟨_, -, -, sub, -, eq⟩ | ⟨_, -, -, sub, -, eq⟩ <;> rw [eq]
  · exact .inl ⟨rfl, rfl⟩
  · have low := h.clockLow sending (.inl noByte)
    exact .inr ⟨low, clock.trans low⟩
  · exact .inl ⟨rfl, rfl⟩
  · exact .inl ⟨rfl, rfl⟩
  · have low := h.clockLow sending (.inr (by rw [sub]; decide))
    exact .inr ⟨low, clock.trans low⟩
  · have low := h.clockLow sending (.inr (by rw [sub]; decide))
    exact .inr ⟨low, low⟩

/-- Reset apart, a tick leaves the strobe and the data line, or has the clock low before and after. -/
theorem Regs.Inv.step_pins {r : Regs} (h : r.Inv) {i : Inputs} (rst : i.rst = false) :
    ((r.step i).stb = r.stb ∧ (r.step i).dio = r.dio) ∨ (r.dclk = false ∧ (r.step i).dclk = false) := by
  rcases r.step_cases i with ⟨reset, eq⟩ | ⟨-, -, eq⟩ | ⟨-, -, sending, eq⟩ | ⟨-, eq⟩ | ⟨v, ⟨idle, -⟩, eq⟩ |
    ⟨-, -, eq⟩ <;> rw [eq]
  · exact absurd (rst.symm.trans reset) Bool.false_ne_true
  · have same := r.stepMeasure_sameSerializer i.echo
    exact .inl ⟨same.stb, same.dio⟩
  · exact h.serializer.stepRender_pins sending
  · exact .inl ⟨rfl, rfl⟩
  · obtain ⟨-, serializer⟩ := r.busy_eq_false_iff.mp idle
    obtain ⟨-, clock, -⟩ := h.serializer.idlePins serializer
    exact .inr ⟨clock, clock⟩
  · exact .inl ⟨rfl, rfl⟩

/-- Settles O46. -/
theorem displayPinsMoveWithClockLow : Obligations.DisplayPinsMoveWithClockLow := by
  intro s t inv stepped rst
  rw [core_of_step stepped]
  rcases inv.core.step_pins rst with ⟨stb, dio⟩ | low
  · exact ⟨fun moved => absurd dio moved, fun moved => absurd stb moved⟩
  · exact ⟨fun _ => low, fun _ => low⟩

/-- Settles O47: a raised trigger means a busy timer, hence an idle serializer with its pins at rest. -/
theorem enginesNeverOverlap : Obligations.EnginesNeverOverlap := by
  intro s t inv stepped
  rw [core_of_step stepped]
  have next := stepKeepsTheCoreInvariant s.core s.sample inv.core
  refine ⟨fun trig => ?_, fun rst timing => ?_, fun sending => ?_⟩
  · have phase := next.timer.trigIff.mp trig
    have serializer := next.oneEngine (by rw [phase]; decide)
    obtain ⟨stb, clock, -⟩ := next.serializer.idlePins serializer
    exact ⟨stb, clock, serializer⟩
  · rw [Regs.step_of_timing rst timing]
    exact (s.core.stepMeasure_sameSerializer s.sample.echo).pins
  · have timer : s.core.mph = .idle := by
      by_contra timing
      exact absurd (sending.symm.trans (inv.core.oneEngine timing)) (by decide)
    have low : s.core.trig ≠ true := fun trig => by
      have phase := inv.core.timer.trigIff.mp trig
      rw [timer] at phase
      cases phase
    cases rst : s.sample.rst with
    | true => rw [Regs.step_of_rst rst]; rfl
    | false =>
      obtain ⟨same, -⟩ := s.core.stepRender_keeps hardware
      rw [Regs.step_of_sending rst timer sending, same.trig]
      exact Bool.eq_false_iff.mpr low

end Sys2Proof.Machine
end

section
/-! The display sink: what each wire byte writes (20_memory.md R61, 30_encoding.md R99) and what the strobe's rise commits
(20_memory.md R75, 70_reset_and_hazards.md R254). -/

namespace Sys2Proof.Machine

/-! ### The rows of the bus -/

/-- Settles O51. -/
theorem commandBytesSetTheDisplay : Obligations.CommandBytesSetTheDisplay := fun _ => ⟨rfl, rfl, rfl⟩

/-- The data rows of the table with their bytes (30_encoding.md R99, 42_digits.md R165, R166). -/
def dataRows : List (Instr × Byte) :=
  [(.dummy, 0x00), (.seg0, 0x3F), (.seg1, 0x06), (.seg2, 0x5B), (.seg3, 0x4F), (.seg4, 0x66), (.seg5, 0x6D),
    (.seg6, 0x7D), (.seg7, 0x07), (.seg8, 0x7F), (.seg9, 0x6F), (.segBlank, 0x00)]

/-- A data row stores its byte. -/
theorem exec_dataRow {i : Instr} {b : Byte} (row : (i, b) ∈ dataRows) (s : State) : exec i s = .next (s.storeData b) := by
  simp only [dataRows, List.mem_cons, Prod.mk.injEq, List.not_mem_nil, or_false] at row
  rcases row with ⟨rfl, rfl⟩ | ⟨rfl, rfl⟩ | ⟨rfl, rfl⟩ | ⟨rfl, rfl⟩ | ⟨rfl, rfl⟩ | ⟨rfl, rfl⟩ | ⟨rfl, rfl⟩ |
    ⟨rfl, rfl⟩ | ⟨rfl, rfl⟩ | ⟨rfl, rfl⟩ | ⟨rfl, rfl⟩ | ⟨rfl, rfl⟩ <;> rfl

/-- What may stand behind the first byte of a transaction is a data row, whose byte is its word. -/
theorem dataRow_of_wellFormed {i : Instr} {slot : Slot} (onBus : slot ≠ .port) (later : slot ≠ .first)
    (legal : i.wellFormed slot = true) : ∃ b, encode i = .bus8 b ∧ (i, b) ∈ dataRows := by
  cases i <;> obtain rfl := of_decide_eq_true legal
  case nop | measure | render | rsvd3 => exact absurd rfl onBus
  case cmdData | cmdAddr | cmdDisp => exact absurd rfl later
  all_goals exact ⟨_, rfl, by decide⟩

section
variable {d : Display} (n : Nat)

theorem Display.column_of_addressed (h : d.addressed = true) : d.column n = d.addr := if_pos h

theorem Display.column_of_not_addressed (h : d.addressed = false) : d.column n = Config.freeColumn n :=
  if_neg (Bool.eq_false_iff.mp h)

theorem Display.storeData_addr_of_addressed (h : d.addressed = true) (b : Byte) :
    (d.storeData n b).addr = d.addr + 1 := if_pos h

theorem Display.storeData_addr_of_not_addressed (h : d.addressed = false) (b : Byte) :
    (d.storeData n b).addr = Config.freeAddr n := if_neg (Bool.eq_false_iff.mp h)

end

/-- Settles O52: the row stores its byte, and a store is read back at its column. -/
theorem dataBytesAreStored : Obligations.DataBytesAreStored := by
  intro s i b row
  exact ⟨s.storeData b, exec_dataRow row s, rfl, Memory.readByte_writeByte_same _ _ b, rfl,
    fun h => ⟨Display.column_of_addressed s.tick h, Display.storeData_addr_of_addressed s.tick h b⟩,
    fun h => ⟨Display.column_of_not_addressed s.tick h, Display.storeData_addr_of_not_addressed s.tick h b⟩⟩

/-- Settles O53: a command byte writes its one register; any other byte is a store. -/
theorem wireByteFrame : Obligations.WireByteFrame := by
  intro s t i slot onBus legal ran
  by_cases first : slot = .first
  · subst first
    obtain ⟨data, addr, disp⟩ := commandBytesSetTheDisplay s
    cases i <;> simp only [Instr.wellFormed, decide_eq_true_eq, reduceCtorEq, decide_false, Bool.false_eq_true] at legal
    case cmdData =>
      cases data.symm.trans ran
      simp
    case cmdAddr =>
      cases addr.symm.trans ran
      simp
    case cmdDisp =>
      cases disp.symm.trans ran
      simp
  · obtain ⟨b, -, row⟩ := dataRow_of_wellFormed onBus first legal
    cases (exec_dataRow row s).symm.trans ran
    exact ⟨rfl, rfl, rfl, rfl, fun _ => rfl, fun _ => rfl, fun _ => ⟨rfl, rfl⟩, fun h => absurd h first,
      fun _ x other => Memory.readByte_writeByte_other _ b other⟩

/-! ### The strobe's rise -/

section
variable {p q : Pins} {rx : Receiver} {bs : List Byte}

/-- With the strobe high before and after the receiver does nothing: no transaction opens or closes, no bit is taken. -/
theorem Receiver.observe_of_high (before : p.stb = true) (after : q.stb = true) : rx.observe p q = rx := by
  simp [observe, openOn, closeOn, sampled, before, after]

/-- The strobe's rise closes the open transaction with its whole bytes (43_serialize.md R196). -/
theorem Receiver.observe_of_rise (low : p.stb = false) (up : q.stb = true) (opened : rx.trans = some bs) :
    rx.observe p q = { trans := none, bits := [], closed := rx.closed ++ [bs] } := by
  simp [observe, openOn, closeOn, sampled, low, up, opened]

/-- Only pending bits can be cut. -/
theorem Receiver.cut_of_whole (before : p.stb = false) (whole : rx.bits = []) : rx.cut p q = false := by
  simp [cut, openOn, before, whole]

end

/-- A tick in which the strobe rises after whole bytes commits the transaction it closes. -/
theorem deliver_of_rise {p : Pins} {s : State} {bs : List Byte} (low : p.stb = false) (up : s.core.stb = true)
    (whole : s.disp.rx.bits = []) (opened : s.disp.rx.trans = some bs) :
    deliver p s = commit bs { s with disp := { s.disp with
      rx := { trans := none, bits := [], closed := s.disp.rx.closed ++ [bs] } } } := by
  have committed : s.disp.rx.committed p s.core.pins = some bs := (Receiver.committed_of_rise low up whole).trans opened
  rw [deliver_of_committed up committed, State.watch_uncut _ _ _ (Receiver.cut_of_whole low whole),
    Receiver.observe_of_rise low up opened]

/-- The machine's step where the strobe rises after whole bytes. -/
theorem step_of_rise {s : State} {bs : List Byte} (low : s.core.stb = false) (up : (s.core.step s.sample).stb = true)
    (whole : s.disp.rx.bits = []) (opened : s.disp.rx.trans = some bs) :
    step s = commit bs { s.consume with
      core := s.core.step s.sample
      disp := { s.disp with rx := { trans := none, bits := [], closed := s.disp.rx.closed ++ [bs] } } } :=
  (step_eq_deliver s).trans (deliver_of_rise (s := { s.consume with core := s.core.step s.sample }) low up whole opened)

/-- Settles O58: a tick without a rise is `deliver_keeps`, a rise after a listed first byte is `commit_listed`. -/
theorem deviceCommitsAtTheStrobe : Obligations.DeviceCommitsAtTheStrobe := by
  intro s t stepped
  have core := core_of_step stepped
  refine ⟨fun noRise => ?_, fun b data low up whole opened listed => ?_⟩
  · have strobe : s.core.pins.stb = true ∨ (s.core.step s.sample).pins.stb = false := by
      rw [core] at noRise
      cases before : s.core.stb
      · exact .inr (Bool.eq_false_iff.mpr fun up => noRise ⟨before, up⟩)
      · exact .inl before
    obtain ⟨d, delivered, autoInc, on, level, latched⟩ :=
      deliver_keeps s.core.pins { s.consume with core := s.core.step s.sample } strobe
    cases stepped.symm.trans ((step_eq_deliver s).trans delivered)
    exact ⟨autoInc, on, level, fun x => by rw [latched]; rfl⟩
  · rw [core] at up
    have ran := (step_of_rise low up whole opened).trans (commit_listed b data _ listed)
    cases ran.symm.trans stepped
    exact ⟨rfl, rfl, rfl, rfl, fun x => ⟨rfl, rfl⟩⟩

/-! ### Reset -/

/-- With the strobe high before and after, the sink has nothing to do. -/
theorem deliver_of_high {p : Pins} {s : State} (before : p.stb = true) (after : s.core.stb = true) :
    deliver p s = .next s := by
  have uncut : s.disp.rx.cut p s.core.pins = false := by simp [Receiver.cut, before]
  rw [deliver_of_quiet (Receiver.received_none_of_rise _ _ _ after) (Receiver.committed_none _ _ _ (.inl before)),
    State.watch_uncut _ _ _ uncut, Receiver.observe_of_high before after]

/-- Settles O19: RESET_STATE has the strobe high, so the sink sees a rise of the strobe or nothing. -/
theorem resetClosesTheTransaction : Obligations.ResetClosesTheTransaction := by
  intro s rst
  have up : (s.core.step s.sample).stb = true := by rw [Regs.step_of_rst rst]; rfl
  obtain ⟨t, stepped, core, -, -, observed⟩ := stepFollowsTheStepRule s
  refine ⟨t, stepped, fun high => ?_, fun low bs opened => ⟨?_, fun whole listed => ?_⟩⟩
  · have stays := (step_eq_deliver s).trans
      (deliver_of_high (s := { s.consume with core := s.core.step s.sample }) high up)
    cases stepped.symm.trans stays
    rfl
  · rw [observed]
    exact Receiver.observe_of_rise low (by rw [core]; exact up) opened
  · have ran := step_of_rise low up whole opened
    cases bs with
    | nil =>
      cases stepped.symm.trans ran
      simp
    | cons b data =>
      cases stepped.symm.trans (ran.trans (commit_listed b data _ (listed b rfl)))
      simp

end Sys2Proof.Machine
end

section
/-! A measurement from its acceptance to its end (41_measure.md sections 2, 6 and 7): the states it goes through are those
of the accepting CORE with the counters set, so each phase is a run of an explicit family of states. -/

namespace Sys2Proof.Machine

/-! ### The states of a measurement accepted by `r` -/

/-- `n` ticks of the trigger pulse have gone by. -/
def Regs.triggering (r : Regs) (n : Nat) : Regs := { r.startMeasure with tcnt := BitVec.ofNat 4 n }

/-- `n` low samples of the wait for the rise have been counted. -/
def Regs.rising (r : Regs) (n : Nat) : Regs :=
  { r.startMeasure with trig := false, mph := .waitRise, wcnt := BitVec.ofNat 10 n }

/-- The wait for the fall: `w` low samples before it, `d` high samples so far. -/
def Regs.falling (r : Regs) (w d : Nat) : Regs :=
  { r.startMeasure with
    trig := false, mph := .waitFall, wcnt := BitVec.ofNat 10 w, dcnt := BitVec.ofNat 15 d }

section
variable (r : Regs) (echo : Bool)

theorem Regs.stepMeasure_triggering {n : Nat} (h : n < 9) :
    (r.triggering n).stepMeasure echo = r.triggering (n + 1) := by
  have notLast : (r.triggering n).tcnt ≠ 9 := by simp only [triggering]; bv_omega
  rw [stepMeasure_of_trigger rfl, triggerTick_eq, if_neg notLast, triggering, triggering, BitVec.ofNat_add]
  rfl

theorem Regs.stepMeasure_triggering_last : (r.triggering 9).stepMeasure echo = r.rising 0 := by
  rw [stepMeasure_of_trigger rfl, triggerTick_eq]
  rfl

theorem Regs.stepMeasure_rising_high (n : Nat) : (r.rising n).stepMeasure true = r.falling n 1 := by
  rw [stepMeasure_of_waitRise rfl, waitRiseTick_high]
  rfl

theorem Regs.stepMeasure_rising_low {n : Nat} (h : n < 999) : (r.rising n).stepMeasure false = r.rising (n + 1) := by
  have notLast : (r.rising n).wcnt ≠ 999 := by simp only [rising]; bv_omega
  rw [stepMeasure_of_waitRise rfl, waitRiseTick_low, if_neg notLast, rising, rising, BitVec.ofNat_add]
  rfl

theorem Regs.stepMeasure_rising_last : (r.rising 999).stepMeasure false = r.falling 1000 0 := by
  rw [stepMeasure_of_waitRise rfl, waitRiseTick_low]
  rfl

theorem Regs.stepMeasure_falling_low (w d : Nat) :
    (r.falling w d).stepMeasure false = (r.falling w d).finish (BitVec.ofNat 15 d) := by
  rw [stepMeasure_of_waitFall rfl, waitFallTick_low]
  rfl

theorem Regs.stepMeasure_falling_high (w : Nat) {d : Nat} (h : d < 29999) :
    (r.falling w d).stepMeasure true = r.falling w (d + 1) := by
  have notLast : (r.falling w d).dcnt ≠ 29999 := by simp only [falling]; bv_omega
  rw [stepMeasure_of_waitFall rfl, waitFallTick_high, if_neg notLast, falling, falling, BitVec.ofNat_add]
  rfl

theorem Regs.stepMeasure_falling_cap (w : Nat) :
    (r.falling w 29999).stepMeasure true = (r.falling w 29999).finish (BitVec.ofNat 15 30000) := by
  rw [stepMeasure_of_waitFall rfl, waitFallTick_high]
  rfl

end

/-! ### The run -/

theorem NoReset.mono {ins : Nat → Inputs} {m n : Nat} (h : NoReset ins n) (le : m ≤ n) : NoReset ins m :=
  fun k hk => h k (hk.trans le)

theorem Regs.after_succ (r : Regs) (ins : Nat → Inputs) (k : Nat) :
    r.after ins (k + 1) = (r.after ins k).step (ins k) := rfl

section
variable {r : Regs} {ins : Nat → Inputs}

/-- From a state with the timer busy the next one is the timer's tick. -/
theorem Regs.after_succ_of_timing {k : Nat} {q : Regs} (rst : (ins k).rst = false) (h : r.after ins k = q)
    (timing : q.mph ≠ .idle) : r.after ins (k + 1) = q.stepMeasure (ins k).echo := by
  subst h
  exact step_of_timing rst timing

variable (accepted : r.AcceptsMeasure (ins 0))
include accepted

/-- s_1 to s_10: the trigger pulse. -/
theorem Regs.after_trigger {n : Nat} (noReset : NoReset ins n) (h : n < 10) :
    r.after ins (n + 1) = r.triggering n := by
  induction n with
  | zero => exact step_of_acceptsMeasure accepted
  | succ n ih =>
    have before := ih (noReset.mono n.le_succ) (by omega)
    rw [after_succ_of_timing (noReset _ le_rfl) before nofun, stepMeasure_triggering r _ (by omega)]

/-- s_11 on: the wait for the rise, while the samples are low. -/
theorem Regs.after_rise {n : Nat} (noReset : NoReset ins (n + 10)) (h : n < 1000)
    (low : ∀ k, k < n → (ins (11 + k)).echo = false) : r.after ins (11 + n) = r.rising n := by
  induction n with
  | zero =>
    have pulse := after_trigger accepted (n := 9) (noReset.mono (by omega)) (by omega)
    rw [Nat.add_zero, after_succ_of_timing (noReset _ le_rfl) pulse nofun, stepMeasure_triggering_last]
  | succ n ih =>
    have before := ih (noReset.mono (by omega)) (by omega) fun k hk => low k (hk.trans n.lt_succ_self)
    have rst := noReset (11 + n) (by omega)
    rw [← Nat.add_assoc, after_succ_of_timing rst before nofun, low n n.lt_succ_self,
      stepMeasure_rising_low r (by omega)]

/-- s_1 to s_10 are the trigger pulse and s_11 is past it, whatever `echo` does. -/
theorem Regs.trigger_pulse (noReset : NoReset ins 10) :
    (∀ k, 1 ≤ k → k ≤ 10 → (r.after ins k).trig = true ∧ (r.after ins k).mph = .trigger) ∧
    (r.after ins 11).trig = false ∧ (r.after ins 11).mph = .waitRise := by
  constructor
  · intro k lo hi
    obtain ⟨n, rfl⟩ := Nat.exists_eq_add_of_le' lo
    rw [after_trigger accepted (noReset.mono (by omega)) (by omega)]
    exact ⟨rfl, rfl⟩
  · have waiting := after_rise accepted (n := 0) noReset (by omega) nofun
    rw [waiting]
    exact ⟨rfl, rfl⟩

end

/-- Settles O23. -/
theorem triggerPulseIsTenTicks : Obligations.TriggerPulseIsTenTicks := fun _ _ accepted noReset =>
  Regs.trigger_pulse accepted noReset

/-- The echo waveform as a measurement samples it (41_measure.md section 6): `rise` is the first of the steps 11 to 1010
that samples high, or 1011; `h` the number of high samples from it on, cut off at 30000. -/
structure EchoWave (ins : Nat → Inputs) (rise h : Nat) : Prop where
  lo : 11 ≤ rise
  hi : rise ≤ 1011
  low : ∀ k, 11 ≤ k → k < rise → (ins k).echo = false
  rises : rise ≤ 1010 → (ins rise).echo = true
  cap : h ≤ 30000
  high : ∀ j, j < h → (ins (rise + j)).echo = true
  falls : h < 30000 → (ins (rise + h)).echo = false

/-- `q` is a state of a measurement accepted by `r` and not over: busy, with flag clear and the old results. -/
def Regs.Measuring (r q : Regs) : Prop := q.mph ≠ .idle ∧ q.mdone = false ∧ q.dur = r.dur ∧ q.dist = r.dist

section
variable (r : Regs)

theorem Regs.measuring_triggering (n : Nat) : r.Measuring (r.triggering n) := ⟨nofun, rfl, rfl, rfl⟩

theorem Regs.measuring_rising (n : Nat) : r.Measuring (r.rising n) := ⟨nofun, rfl, rfl, rfl⟩

theorem Regs.measuring_falling (w d : Nat) : r.Measuring (r.falling w d) := ⟨nofun, rfl, rfl, rfl⟩

end

section
variable {r : Regs} {ins : Nat → Inputs} {rise h : Nat}

/-- A wave that rises in time has a high sample. -/
theorem EchoWave.pos (wave : EchoWave ins rise h) (inTime : rise ≤ 1010) : 1 ≤ h := by
  by_contra none
  have fell := wave.falls (by omega)
  rw [show h = 0 by omega, Nat.add_zero, wave.rises inTime] at fell
  cases fell

variable (accepted : r.AcceptsMeasure (ins 0)) (wave : EchoWave ins rise h)
include accepted wave

/-- Where the wait for the fall begins: after the sample that found the rise, which is counted, or after 1000 low
samples. -/
theorem Regs.after_rise_end (noReset : NoReset ins (rise + min h 29999)) :
    ∃ d, d ≤ min h 29999 ∧ d ≤ 1 ∧ rise + d ≤ 1011 ∧ r.after ins (rise + d) = r.falling (rise - 11) d := by
  obtain ⟨n, rfl⟩ := Nat.exists_eq_add_of_le wave.lo
  rw [Nat.add_sub_cancel_left]
  by_cases inTime : 11 + n ≤ 1010
  · have pos := wave.pos inTime
    have waiting := after_rise accepted (n := n) (noReset.mono (by omega)) (by omega)
      fun k hk => wave.low _ (by omega) (by omega)
    have rst := noReset (11 + n) (by omega)
    refine ⟨1, by omega, le_rfl, by omega, ?_⟩
    rw [after_succ_of_timing rst waiting nofun, wave.rises inTime, stepMeasure_rising_high]
  · obtain rfl : n = 1000 := by have := wave.hi; omega
    have waiting := after_rise accepted (n := 999) (noReset.mono (by omega)) (by omega)
      fun k hk => wave.low _ (by omega) (by omega)
    have rst := noReset 1010 (by omega)
    refine ⟨0, by omega, by omega, by omega, ?_⟩
    rw [Nat.add_zero, after_succ_of_timing rst waiting nofun, wave.low 1010 (by omega) (by omega),
      stepMeasure_rising_last]

omit accepted in
/-- From there on the high samples are counted, up to the last busy state. -/
theorem Regs.after_fall (noReset : NoReset ins (rise + min h 29999)) {d n : Nat} (le : d ≤ n) (hn : n ≤ min h 29999)
    (start : r.after ins (rise + d) = r.falling (rise - 11) d) :
    r.after ins (rise + n) = r.falling (rise - 11) n := by
  induction n, le using Nat.le_induction with
  | base => exact start
  | succ n _ ih =>
    have before := ih (by omega)
    have rst := noReset (rise + n) (by omega)
    rw [← Nat.add_assoc, after_succ_of_timing rst before nofun, wave.high n (by omega),
      stepMeasure_falling_high r _ (by omega)]

/-- s_F: the last busy state, F = rise + min(h, 29999). -/
theorem Regs.after_last (noReset : NoReset ins (rise + min h 29999)) :
    r.after ins (rise + min h 29999) = r.falling (rise - 11) (min h 29999) := by
  obtain ⟨d, le, -, -, start⟩ := after_rise_end accepted wave noReset
  exact after_fall wave noReset le le_rfl start

/-- s_1 to s_F belong to the three phases. -/
theorem Regs.measuring_after (noReset : NoReset ins (rise + min h 29999)) {k : Nat} (lo : 1 ≤ k)
    (hi : k ≤ rise + min h 29999) : r.Measuring (r.after ins k) := by
  obtain ⟨d, le, one, early, start⟩ := after_rise_end accepted wave noReset
  by_cases pulse : k ≤ 10
  · obtain ⟨n, rfl⟩ := Nat.exists_eq_add_of_le' lo
    rw [after_trigger accepted (noReset.mono (by omega)) (by omega)]
    exact r.measuring_triggering n
  by_cases wait : k < rise + d
  · obtain ⟨n, rfl⟩ := Nat.exists_eq_add_of_le (show 11 ≤ k by omega)
    rw [after_rise accepted (noReset.mono (by omega)) (by omega) fun j hj => wave.low _ (by omega) (by omega)]
    exact r.measuring_rising n
  · obtain ⟨n, rfl⟩ := Nat.exists_eq_add_of_le (show rise ≤ k by omega)
    rw [after_fall wave noReset (n := n) (by omega) (by omega) start]
    exact r.measuring_falling _ n

/-- s_(F+1): a low sample, or the 30000th high one, has finished the measurement with the result h. -/
theorem Regs.after_finish (noReset : NoReset ins (rise + min h 29999)) :
    r.after ins (rise + min h 29999 + 1) = (r.falling (rise - 11) (min h 29999)).finish (BitVec.ofNat 15 h) := by
  rw [after_succ_of_timing (noReset _ le_rfl) (after_last accepted wave noReset) nofun]
  by_cases capped : h = 30000
  · subst capped
    rw [show min 30000 29999 = 29999 from rfl, wave.high 29999 (by omega), stepMeasure_falling_cap]
  · have cap := wave.cap
    rw [Nat.min_eq_left (by omega), wave.falls (by omega), stepMeasure_falling_low]

/-- What s_(F+1) shows. -/
theorem Regs.after_finish_result (noReset : NoReset ins (rise + min h 29999)) :
    (r.after ins (rise + min h 29999 + 1)).busy = false ∧ (r.after ins (rise + min h 29999 + 1)).mdone = true ∧
    (r.after ins (rise + min h 29999 + 1)).dur.toNat = h ∧
    (r.after ins (rise + min h 29999 + 1)).dist.toNat = h / 58 ∧
    (r.after ins (rise + min h 29999 + 1)).wcnt.toNat = rise - 11 := by
  obtain ⟨-, serializer⟩ := r.busy_eq_false_iff.mp accepted.1
  have cap := wave.cap
  have hi := wave.hi
  have count : (BitVec.ofNat 15 h).toNat = h := Nat.mod_eq_of_lt (by omega)
  rw [after_finish accepted wave noReset]
  obtain ⟨done, -, dist⟩ := (r.falling (rise - 11) (min h 29999)).finish_result (BitVec.ofNat 15 h)
  refine ⟨(busy_eq_false_iff _).mpr ⟨rfl, serializer⟩, done, count, dist.trans ?_, Nat.mod_eq_of_lt (by omega)⟩
  exact congrArg (· / 58) count

end

/-- Settles O24: the three phases, then the finishing step. -/
theorem measurementResult : Obligations.MeasurementResult := by
  intro r ins rise h accepted lo hi low rises cap high falls noReset
  have wave : EchoWave ins rise h := ⟨lo, hi, low, rises, cap, high, falls⟩
  refine ⟨fun k first last => ?_, Regs.after_finish_result accepted wave noReset⟩
  obtain ⟨timing, flag, dur, dist⟩ := Regs.measuring_after accepted wave noReset first last
  exact ⟨(Regs.busy_iff _).mpr (.inl timing), flag, dur, dist⟩

/-! ### Every waveform is one of these -/

/-- The first place at which a predicate holds, or the end of the search. -/
theorem exists_first_or_end (p : Nat → Bool) (n : Nat) :
    ∃ m ≤ n, (∀ k, k < m → p k = false) ∧ (m < n → p m = true) := by
  induction n with
  | zero => exact ⟨0, le_rfl, nofun, nofun⟩
  | succ n ih =>
    obtain ⟨m, le, before, found⟩ := ih
    by_cases last : m = n ∧ p n = false
    · obtain ⟨rfl, low⟩ := last
      exact ⟨m + 1, le_rfl, fun k hk => (Nat.lt_succ_iff_lt_or_eq.mp hk).elim (before k) fun eq => eq ▸ low,
        fun lt => absurd lt (lt_irrefl _)⟩
    · refine ⟨m, by omega, before, fun _ => ?_⟩
      rcases le.lt_or_eq with lt | rfl
      · exact found lt
      · exact Bool.eq_true_of_not_eq_false fun low => last ⟨rfl, low⟩

theorem exists_echoWave (ins : Nat → Inputs) : ∃ rise h, EchoWave ins rise h := by
  obtain ⟨m, mLe, mBefore, mFound⟩ := exists_first_or_end (fun k => (ins (11 + k)).echo) 1000
  obtain ⟨h, hLe, hBefore, hFound⟩ := exists_first_or_end (fun j => !(ins (11 + m + j)).echo) 30000
  refine ⟨11 + m, h, ⟨by omega, by omega, fun k lo hi => ?_, fun le => mFound (by omega), hLe, fun j lt => ?_,
    fun lt => ?_⟩⟩
  · obtain ⟨n, rfl⟩ := Nat.exists_eq_add_of_le lo
    exact mBefore n (by omega)
  · simpa using hBefore j lt
  · simpa using hFound lt

/-- Settles O25: whatever the wave, F = rise + min(h, 29999) lies between 12 and 31010. -/
theorem measurementAlwaysEnds : Obligations.MeasurementAlwaysEnds := by
  intro r ins accepted noReset
  obtain ⟨rise, h, wave⟩ := exists_echoWave ins
  have ⟨lo, hi, _, _, cap, _, _⟩ := wave
  have shortest : 12 ≤ rise + min h 29999 := by
    by_cases inTime : rise ≤ 1010
    · have := wave.pos inTime
      omega
    · omega
  have longest : rise + min h 29999 ≤ 31010 := by omega
  obtain ⟨idle, done, dur, dist, -⟩ := Regs.after_finish_result accepted wave (noReset.mono longest)
  refine ⟨_, shortest, longest, fun k first last => ?_, idle, done, by omega, by omega⟩
  obtain ⟨timing, -⟩ := Regs.measuring_after accepted wave (noReset.mono longest) first last
  exact (Regs.busy_iff _).mpr (.inl timing)

end Sys2Proof.Machine
end

section
/-! Closed facts of the converter, the host's scripts and the segment map (41_measure.md section 8; 30_encoding.md R100,
R104). -/

namespace Sys2Proof.Machine

/-! ### The reciprocal multiply -/

/-- Settles O29: 18079 / 2^20 exceeds 1/58 by too little to reach the next quotient within the range. -/
theorem reciprocalGivesDistance : Obligations.ReciprocalGivesDistance := by
  intro d le
  rw [distance_eq, Nat.shiftRight_eq_div_pow]
  omega

/-! ### Host scripts -/

/-- The word a RENDER line presents is the code 0b10 above its operand (30_encoding.md R90, R92). -/
theorem ofNat_renderWord {n : Nat} (h : n < 2 ^ 16) : BitVec.ofNat 18 (0x20000 + n) = 0b10#2 ++ BitVec.ofNat 16 n := by
  have operand : (BitVec.ofNat 16 n).toNat = n := Nat.mod_eq_of_lt h
  have word : (BitVec.ofNat 18 (0x20000 + n)).toNat = 0x20000 + n := Nat.mod_eq_of_lt (by omega)
  apply BitVec.eq_of_toNat_eq
  rw [word, BitVec.toNat_append, ← Nat.shiftLeft_add_eq_or_of_lt (BitVec.isLt _), operand]
  rfl

theorem decodeCW_present_render {n : Nat} (h : n < 2 ^ 16) :
    decodeCW (HostDrive.present (0x20000 + n)).cmdWord = .render (BitVec.ofNat 16 n) :=
  (congrArg decodeCW (ofNat_renderWord h)).trans (decodeCW_append_render _)

/-- Settles O56: each line's case of `hostTick`; a wait line that finds its flag not as wanted stays. -/
theorem scriptLinesPresentTheirWords : Obligations.ScriptLinesPresentTheirWords := by
  intro o ls n w
  have renderDist : decodeCW (HostDrive.present (0x20000 + o.dist.toNat)).cmdWord = .render o.dist := by
    rw [decodeCW_present_render o.dist.isLt, BitVec.ofNat_toNat, BitVec.setWidth_eq]
  exact ⟨rfl, rfl, fun le => ⟨rfl, decodeCW_present_render (by omega)⟩, rfl, renderDist, rfl, rfl, rfl,
    fun clear => if_neg (Bool.eq_false_iff.mp clear), fun clear => if_neg (Bool.eq_false_iff.mp clear),
    fun busy => if_pos busy, rfl⟩

/-! ### Segments -/

/-- A legal map takes the eight segments to all eight bits. -/
theorem SegmentBits.bit_surjective {m : SegmentBits} (legal : m.wf) : Function.Surjective m.bit := by
  intro i
  have eight : [m.a, m.b, m.c, m.d, m.e, m.f, m.g, m.dp].toFinset = Finset.univ :=
    Finset.eq_univ_of_card _ (List.toFinset_card_of_nodup legal)
  have listed : i ∈ [Segment.a, .b, .c, .d, .e, .f, .g, .dp].map m.bit :=
    List.mem_toFinset.mp (eight ▸ Finset.mem_univ i)
  obtain ⟨x, -, hx⟩ := List.mem_map.mp listed
  exact ⟨x, hx⟩

/-- So the lit segments determine the pattern. -/
theorem eq_of_segmentLit_eq {c : Config} (legal : c.segments.wf) {p q : Byte}
    (h : ∀ x, segmentLit c p x = segmentLit c q x) : p = q := by
  apply BitVec.eq_of_getLsbD_eq
  intro i hi
  obtain ⟨x, hx⟩ := SegmentBits.bit_surjective legal ⟨i, hi⟩
  have lit := h x
  rw [segmentLit, segmentLit, hx] at lit
  exact lit

theorem segmentLit_blank (c : Config) (x : Segment) : segmentLit c (seg c blank) x = false := by
  rw [segmentLit, seg_of_not_digit c (by decide)]
  exact BitVec.getLsbD_zero

/-- Settles O59: the general facts above, and for this hardware's table its codes and segments one by one. -/
theorem segmentsOfAPattern : Obligations.SegmentsOfAPattern := by
  refine ⟨fun c p q legal => eq_of_segmentLit_eq legal, segmentLit_blank, by decide,
    fun p => ⟨rfl, rfl, rfl, rfl, rfl, rfl, rfl, rfl⟩, by decide, fun x => ?_⟩
  cases x <;> decide

end Sys2Proof.Machine
end

section
/-! A frame from its acceptance to its end (43_serialize.md section 7): 1020 ticks, and which micro-op, bit and part of a
bit each of them is. -/

namespace Sys2Proof.Machine

/-! ### The run of a frame -/

/-- CORE stands at tick `t` of a running frame. -/
structure Regs.InFrame (r : Regs) (t : Nat) : Prop where
  timer : r.mph = .idle
  sending : r.rbusy = true
  notDone : r.rdone = false
  holdOk : r.HoldOk
  tick : r.frameTick = t

theorem Regs.inFrame_startRender {r : Regs} (timer : r.mph = .idle) (v : Arg) :
    (r.startRender hardware v).InFrame 0 where
  timer := timer
  sending := rfl
  notDone := rfl
  holdOk := holdOk_enter _ _ rfl
  tick := rfl

/-- A tick of a running frame is the next tick of the frame, or its end. -/
theorem Regs.InFrame.stepRender {r : Regs} {t : Nat} (h : r.InFrame t) :
    (t = 1019 ∧ (r.stepRender hardware).busy = false ∧ (r.stepRender hardware).rdone = true) ∨
    (t < 1019 ∧ (r.stepRender hardware).InFrame (t + 1)) := by
  obtain ⟨timer, sending, notDone, holdOk, rfl⟩ := h
  obtain ⟨same, -⟩ := r.stepRender_keeps hardware
  have idle := same.mph.trans timer
  rcases frameTick_stepRender holdOk sending with ⟨last, ended, done⟩ | ⟨before, goesOn, next⟩
  · exact .inl ⟨last, (busy_eq_false_iff _).mpr ⟨idle, ended⟩, done⟩
  · refine .inr ⟨before, idle, goesOn, ?_, holdOk_stepRender holdOk goesOn, next⟩
    rcases r.stepRender_done hardware with ⟨-, kept⟩ | ⟨ended, -⟩
    · exact kept.trans notDone
    · exact absurd (goesOn.symm.trans ended) (by decide)

section
variable {r : Regs} {ins : Nat → Inputs} {v : Arg} (accepted : r.AcceptsRender (ins 0) v)
include accepted

/-- s_(1+t) stands at tick `t`. -/
theorem Regs.inFrame_after {t : Nat} (noReset : NoReset ins t) (ht : t < 1020) : (r.after ins (1 + t)).InFrame t := by
  induction t with
  | zero =>
    obtain ⟨timer, -⟩ := r.busy_eq_false_iff.mp accepted.1
    have started : r.after ins 1 = r.startRender hardware v := step_of_acceptsRender accepted
    rw [Nat.add_zero, started]
    exact inFrame_startRender timer v
  | succ t ih =>
    have before := ih (noReset.mono t.le_succ) (by omega)
    have rst := noReset (1 + t) (by omega)
    rw [← Nat.add_assoc, after_succ, step_of_sending rst before.timer before.sending]
    rcases before.stepRender with ⟨last, -⟩ | ⟨-, next⟩
    · omega
    · exact next

/-- So up to s_1021 every step of the run is a tick of the serializer. -/
theorem Regs.after_frame_succ {t : Nat} (noReset : NoReset ins 1020) (ht : t < 1020) :
    r.after ins (1 + (t + 1)) = (r.after ins (1 + t)).stepRender hardware := by
  have before := inFrame_after accepted (noReset.mono ht.le) ht
  exact step_of_sending (noReset (1 + t) (by omega)) before.timer before.sending

/-- What holds when a frame starts and is kept by every tick of it holds up to s_1021. -/
theorem Regs.after_frame_of_kept {P : Regs → Prop} (noReset : NoReset ins 1020) (start : P (r.startRender hardware v))
    (keep : ∀ q : Regs, q.rbusy = true → P q → P (q.stepRender hardware)) {t : Nat} (ht : t ≤ 1020) :
    P (r.after ins (1 + t)) := by
  induction t with
  | zero =>
    have started : r.after ins 1 = r.startRender hardware v := step_of_acceptsRender accepted
    rw [Nat.add_zero, started]
    exact start
  | succ t ih =>
    rw [after_frame_succ accepted noReset ht]
    exact keep _ (inFrame_after accepted (noReset.mono (by omega)) ht).sending (ih (by omega))

/-- s_1021: the frame is over. -/
theorem Regs.after_frame_end (noReset : NoReset ins 1020) :
    (r.after ins 1021).busy = false ∧ (r.after ins 1021).rdone = true := by
  have last := inFrame_after accepted (t := 1019) (noReset.mono (by omega)) (by omega)
  rw [show 1021 = 1 + (1019 + 1) from rfl, after_frame_succ accepted noReset (by omega)]
  rcases last.stepRender with ⟨-, ended⟩ | ⟨before, -⟩
  · exact ended
  · omega

end

/-- Settles O42: tick by tick through the 1020 ticks of the frame. -/
theorem frameTakes1020Ticks : Obligations.FrameTakes1020Ticks := by
  intro r ins v accepted noReset
  refine ⟨fun k lo hi => ?_, Regs.after_frame_end accepted noReset⟩
  obtain ⟨t, rfl⟩ := Nat.exists_eq_add_of_le lo
  have inside := Regs.inFrame_after accepted (t := t) (noReset.mono (by omega)) (by omega)
  exact ⟨(Regs.busy_iff _).mpr (.inr inside.sending), inside.notDone⟩

/-! ### Where a tick of the frame is -/

/-- The ticks of micro-op `q` come before those of any later one. -/
theorem entryTick_lt : ∀ p q : BitVec 4, p < q →
    (entryTick[p.toNat]'p.isLt + if (microOp p).sends then 96 else 10) ≤ entryTick[q.toNat]'q.isLt := by
  decide

/-- A tick of the frame is a tick of one micro-op. -/
theorem eq_of_entryTick_add_eq {p q : BitVec 4} {x y : Nat} (hx : x < if (microOp p).sends then 96 else 10)
    (hy : y < if (microOp q).sends then 96 else 10)
    (h : entryTick[p.toNat]'p.isLt + x = entryTick[q.toNat]'q.isLt + y) : p = q ∧ x = y := by
  rcases Nat.lt_trichotomy p.toNat q.toNat with lt | eq | gt
  · have := entryTick_lt p q lt
    omega
  · obtain rfl := BitVec.eq_of_toNat_eq eq
    exact ⟨rfl, by omega⟩
  · have := entryTick_lt q p gt
    omega

section
variable {r : Regs}

/-- A micro-op has no more ticks than it takes (43_serialize.md R184, R187). -/
theorem Regs.opTick_lt (r : Regs) : r.opTick < if (microOp r.rseq).sends then 96 else 10 := by
  have bit := r.bitix.isLt
  unfold opTick
  cases op : microOp r.rseq with
  | stb0 | stb1 =>
    simp only [MicroOp.sends, Bool.false_eq_true, if_false]
    omega
  | byte j => cases sub : r.sub <;> simp only [MicroOp.sends, if_true] <;> omega

/-- A tick of the frame tells the micro-op and the ticks of it gone by. -/
theorem Regs.place_of_frameTick {q : BitVec 4} {x : Nat}
    (tick : r.frameTick = entryTick[q.toNat]'q.isLt + x) (hx : x < if (microOp q).sends then 96 else 10) :
    r.rseq = q ∧ r.opTick = x :=
  eq_of_entryTick_add_eq r.opTick_lt hx tick

/-- Inside a byte it tells the bit and whether this is the part with the clock high: its third to seventh tick. -/
theorem Regs.bit_of_opTick (h : r.HoldOk) {j : Fin 10} (op : microOp r.rseq = .byte j) {i x : Nat}
    (tick : r.opTick = 12 * i + x) (hx : x < 12) : r.bitix.toNat = i ∧ (r.sub = .high ↔ 2 ≤ x ∧ x < 7) := by
  simp only [HoldOk, op, MicroOp.longestHold] at h
  simp only [opTick, op] at tick
  cases sub : r.sub <;> simp only [sub, reduceCtorEq, false_iff, true_iff] at h tick ⊢ <;> omega

end

/-- The schedule needs of a state that its serializer is in order and that it sends the frame of `v`. -/
def Regs.Sends (v : Arg) (r : Regs) : Prop := r.SerializerInv ∧ r.fb = frame hardware (split v.toNat)

section
variable {r : Regs} {v : Arg}

theorem Regs.sends_startRender (clock : r.dclk = false) : (r.startRender hardware v).Sends v :=
  ⟨r.startRender_serializerInv clock v, rfl⟩

theorem Regs.Sends.stepRender (sending : r.rbusy = true) (h : r.Sends v) : (r.stepRender hardware).Sends v := by
  obtain ⟨-, -, -, fb⟩ := r.stepRender_keeps hardware
  exact ⟨h.1.stepRender sending, fb.trans h.2⟩

end

section
variable {r : Regs} (inv : r.SerializerInv) {q : BitVec 4} {x : Nat}
include inv

/-- In a strobe micro-op the strobe has its level and the clock is low (43_serialize.md R185). -/
theorem Regs.SerializerInv.strobe_levels (op : microOp q = .stb0 ∨ microOp q = .stb1) (hx : x < 10)
    (frame : r.InFrame (entryTick[q.toNat]'q.isLt + x)) :
    r.rseq = q ∧ r.stb = (microOp q).strobe ∧ r.dclk = false := by
  have noByte : (microOp q).sends = false := by rcases op with op | op <;> rw [op] <;> rfl
  obtain ⟨rfl, -⟩ := place_of_frameTick frame.tick (by simpa [noByte] using hx)
  refine ⟨rfl, inv.strobeLevel frame.sending, inv.clockLow frame.sending (.inl fun j byte => ?_)⟩
  rw [byte] at noByte
  cases noByte

/-- In bit `i` of a byte the strobe is low, the bit on the data line and the clock high in the third to seventh tick
(43_serialize.md R187). -/
theorem Regs.SerializerInv.bit_levels {j : Fin 10} (op : microOp q = .byte j) {i : Nat} (hi : i < 8) (hx : x < 12)
    (frame : r.InFrame (entryTick[q.toNat]'q.isLt + (12 * i + x))) :
    r.rseq = q ∧ r.pins = { stb := false, dclk := decide (2 ≤ x ∧ x < 7), dio := r.fb[j].getLsbD i } := by
  have byte : (microOp q).sends = true := by rw [op]; rfl
  obtain ⟨rfl, tick⟩ := place_of_frameTick frame.tick (by simp only [byte, if_true]; omega)
  obtain ⟨rfl, high⟩ := bit_of_opTick frame.holdOk op tick hx
  have stb : r.stb = false := (inv.strobeLevel frame.sending).trans (by rw [op]; rfl)
  have dclk := inv.clockIff frame.sending
  rw [byte, high, eq_self_iff_true, true_and] at dclk
  refine ⟨rfl, ?_⟩
  rw [pins, stb, inv.dataLevel frame.sending j op, Bool.eq_iff_iff.mpr (dclk.trans decide_eq_true_iff.symm)]

end

/-- Settles O43: each tick has one place in the frame, and the serializer's invariant gives the levels there. -/
theorem frameSchedule : Obligations.FrameSchedule := by
  intro r ins v accepted clock noReset
  have inside : ∀ t, t < 1020 → (r.after ins (1 + t)).InFrame t ∧ (r.after ins (1 + t)).Sends v := fun t ht =>
    ⟨Regs.inFrame_after accepted (noReset.mono ht.le) ht,
      Regs.after_frame_of_kept accepted noReset (Regs.sends_startRender clock) (fun _ => Regs.Sends.stepRender) ht.le⟩
  refine ⟨fun t ht => ⟨(inside t ht).1.sending, (inside t ht).1.tick⟩, fun q x op hx => ?_,
    fun q j i x op hi hx => ?_⟩
  · have fits := entryTick_le q
    obtain ⟨frame, inv, -⟩ := inside (entryTick[q.toNat]'q.isLt + x) (by split at fits <;> omega)
    rw [← Nat.add_assoc] at frame inv
    exact inv.strobe_levels op hx frame
  · have fits := entryTick_le q
    rw [op] at fits
    simp only [MicroOp.sends, if_true] at fits
    obtain ⟨frame, inv, fb⟩ := inside (entryTick[q.toNat]'q.isLt + (12 * i + x)) (by omega)
    rw [← Nat.add_assoc, ← Nat.add_assoc] at frame inv fb
    rw [← fb]
    exact inv.bit_levels op hi hx frame

end Sys2Proof.Machine
end

section
/-! Two runs compared (10_state.md section 8): a tick of an engine reads the engine's own fields, so two COREs that agree
in them go on agreeing. -/

namespace Sys2Proof.Machine

/-! ### The serializer reads no field of the timer -/

/-- `r` with the timer's fields of `q`. -/
def Regs.withTimer (q r : Regs) : Regs :=
  { r with
    mph := q.mph, tcnt := q.tcnt, wcnt := q.wcnt, dcnt := q.dcnt, dur := q.dur, dist := q.dist, mdone := q.mdone,
    trig := q.trig }

theorem Regs.sameSerializer_withTimer (q r : Regs) : r.SameSerializer (q.withTimer r) :=
  ⟨rfl, rfl, rfl, rfl, rfl, rfl, rfl, rfl, rfl, rfl, rfl, rfl⟩

/-- COREs that agree in the serializer's fields differ in the timer's only. -/
theorem Regs.SameSerializer.eq_withTimer {r q : Regs} (h : r.SameSerializer q) : q = q.withTimer r := by
  obtain ⟨h1, h2, h3, h4, h5, h6, h7, h8, h9, h10, h11, h12⟩ := h
  rw [withTimer, ← h1, ← h2, ← h3, ← h4, ← h5, ← h6, ← h7, ← h8, ← h9, ← h10, ← h11, ← h12]

section
variable (c : Config) (q r : Regs)

theorem Regs.nextOp_withTimer : (q.withTimer r).nextOp c = q.withTimer (r.nextOp c) := by
  by_cases last : r.rseq = 15
  · rw [nextOp_of_last last, nextOp_of_last (r := q.withTimer r) last]
    rfl
  · rw [nextOp_of_ne_last last, nextOp_of_ne_last (r := q.withTimer r) last]
    show Regs.enter c (microOp (r.rseq + 1)) _ = _
    cases microOp (r.rseq + 1) <;> rfl

theorem Regs.bitStep_withTimer (j : Fin 10) : (q.withTimer r).bitStep c j = q.withTimer (r.bitStep c j) := by
  cases sub : r.sub with
  | setup => rw [bitStep_of_setup sub, bitStep_of_setup (r := q.withTimer r) sub]; rfl
  | high => rw [bitStep_of_high sub, bitStep_of_high (r := q.withTimer r) sub]; rfl
  | low =>
    by_cases last : r.bitix = 7
    · rw [bitStep_of_last_low sub last, bitStep_of_last_low (r := q.withTimer r) sub last, nextOp_withTimer]
    · rw [bitStep_of_low sub last, bitStep_of_low (r := q.withTimer r) sub last]
      rfl

theorem Regs.stepRender_withTimer : (q.withTimer r).stepRender c = q.withTimer (r.stepRender c) := by
  by_cases hold : r.hold = 0
  · cases op : microOp r.rseq with
    | stb0 =>
      rw [stepRender_of_strobe hold (.inl op), stepRender_of_strobe (r := q.withTimer r) hold (.inl op),
        nextOp_withTimer]
    | stb1 =>
      rw [stepRender_of_strobe hold (.inr op), stepRender_of_strobe (r := q.withTimer r) hold (.inr op),
        nextOp_withTimer]
    | byte j =>
      rw [stepRender_of_byte hold op, stepRender_of_byte (r := q.withTimer r) hold op, bitStep_withTimer]
  · rw [stepRender_of_hold hold, stepRender_of_hold (r := q.withTimer r) hold]
    rfl

end

/-- Agreement in the serializer's fields is kept by a tick of the serializer. -/
theorem Regs.SameSerializer.stepRender {r q : Regs} (h : r.SameSerializer q) (c : Config) :
    (r.stepRender c).SameSerializer (q.stepRender c) := by
  rw [h.eq_withTimer, stepRender_withTimer]
  exact sameSerializer_withTimer q _

/-! ### Two frames -/

section
variable {r : Regs} {ins : Nat → Inputs} {v : Arg} (accepted : r.AcceptsRender (ins 0) v)
  (noReset : NoReset ins 1020)
include accepted noReset

/-- s_1 to s_10: the first settle only counts its hold down. -/
theorem Regs.after_settle {t : Nat} (ht : t < 10) :
    r.after ins (1 + t) = (r.startRender hardware v).startHold (10 - t) := by
  induction t with
  | zero => exact step_of_acceptsRender accepted
  | succ t ih =>
    rw [after_frame_succ accepted noReset (by omega), ih (by omega), show 10 - t = 10 - (t + 1) + 1 by omega,
      stepRender_startHold hardware _ (by omega) (by omega)]

/-- s_11: BYTE(0) is entered, which writes what the settle has left. -/
theorem Regs.after_first_byte :
    r.after ins 11 = ({ r.startRender hardware v with rseq := 1 } : Regs).enter hardware (.byte 0) := by
  rw [show 11 = 1 + (9 + 1) from rfl, after_frame_succ accepted noReset (by omega),
    after_settle accepted noReset (by omega)]
  rfl

end

section
variable {r q : Regs} {ins : Nat → Inputs} {v : Arg} (acceptedR : r.AcceptsRender (ins 0) v)
  (acceptedQ : q.AcceptsRender (ins 0) v) (clock : q.dclk = r.dclk) (noReset : NoReset ins 1020)
include acceptedR acceptedQ clock noReset

/-- Two COREs that accept the same RENDER agree in the serializer from s_11 to s_1021. -/
theorem Regs.sameSerializer_after {t : Nat} (lo : 10 ≤ t) (hi : t ≤ 1020) :
    (r.after ins (1 + t)).SameSerializer (q.after ins (1 + t)) := by
  induction t, lo using Nat.le_induction with
  | base =>
    rw [show 1 + 10 = 11 from rfl, after_first_byte acceptedR noReset, after_first_byte acceptedQ noReset]
    exact ⟨rfl, rfl, rfl, rfl, rfl, rfl, rfl, rfl, rfl, clock, rfl, rfl⟩
  | succ t _ ih =>
    rw [after_frame_succ acceptedR noReset (by omega), after_frame_succ acceptedQ noReset (by omega)]
    exact (ih (by omega)).stepRender hardware

end

/-! ### Two measurements -/

/-- The fields in which two measurements agree while they run. -/
structure Regs.SameCounters (r q : Regs) : Prop where
  mph : r.mph = q.mph
  trig : r.trig = q.trig
  tcnt : r.tcnt = q.tcnt
  wcnt : r.wcnt = q.wcnt
  dcnt : r.dcnt = q.dcnt
  mdone : r.mdone = q.mdone

/-- Two results agree: nothing is asked before the measurement ends. -/
def Regs.SameResult (r q : Regs) : Prop := r.mph = .idle → r.dur = q.dur ∧ r.dist = q.dist

theorem Regs.same_finish (d : BitVec 15) {r q : Regs} (h : r.SameCounters q) :
    (r.finish d).SameCounters (q.finish d) ∧ (r.finish d).SameResult (q.finish d) :=
  ⟨⟨rfl, h.trig, h.tcnt, h.wcnt, rfl, rfl⟩, fun _ => ⟨rfl, rfl⟩⟩

/-- A tick of a busy timer reads its phase and counters only, and writes the result from them. -/
theorem Regs.SameCounters.stepMeasure {r q : Regs} (h : r.SameCounters q) (timing : r.mph ≠ .idle) (echo : Bool) :
    (r.stepMeasure echo).SameCounters (q.stepMeasure echo) ∧ (r.stepMeasure echo).SameResult (q.stepMeasure echo) := by
  have ⟨mph, trig, tcnt, wcnt, dcnt, mdone⟩ := h
  cases phase : r.mph with
  | idle => exact absurd phase timing
  | trigger =>
    rw [stepMeasure_of_trigger phase, stepMeasure_of_trigger (mph ▸ phase), triggerTick_eq, triggerTick_eq, tcnt]
    split
    · exact ⟨⟨rfl, rfl, rfl, wcnt, dcnt, mdone⟩, nofun⟩
    · exact ⟨⟨mph, trig, rfl, wcnt, dcnt, mdone⟩, fun idle => absurd idle timing⟩
  | waitRise =>
    rw [stepMeasure_of_waitRise phase, stepMeasure_of_waitRise (mph ▸ phase)]
    cases echo with
    | true => exact ⟨⟨rfl, trig, tcnt, wcnt, rfl, mdone⟩, nofun⟩
    | false =>
      rw [waitRiseTick_low, waitRiseTick_low, wcnt]
      split
      · exact ⟨⟨rfl, trig, tcnt, rfl, dcnt, mdone⟩, nofun⟩
      · exact ⟨⟨mph, trig, tcnt, rfl, dcnt, mdone⟩, fun idle => absurd idle timing⟩
  | waitFall =>
    rw [stepMeasure_of_waitFall phase, stepMeasure_of_waitFall (mph ▸ phase)]
    cases echo with
    | false =>
      rw [waitFallTick_low, waitFallTick_low, dcnt]
      exact same_finish q.dcnt h
    | true =>
      rw [waitFallTick_high, waitFallTick_high, dcnt]
      split
      · exact same_finish 30000 h
      · exact ⟨⟨mph, trig, tcnt, wcnt, rfl, mdone⟩, fun idle => absurd idle timing⟩

/-- Two COREs that accept a MEASURE under the same inputs agree as long as it runs, and in the result when it ends. -/
theorem Regs.same_after_measure {r q : Regs} {ins : Nat → Inputs} (acceptedR : r.AcceptsMeasure (ins 0))
    (acceptedQ : q.AcceptsMeasure (ins 0)) {n : Nat} (noReset : NoReset ins n)
    (timing : ∀ j, 1 ≤ j → j ≤ n → (r.after ins j).mph ≠ .idle) :
    (r.after ins (n + 1)).SameCounters (q.after ins (n + 1)) ∧
      (r.after ins (n + 1)).SameResult (q.after ins (n + 1)) := by
  induction n with
  | zero =>
    rw [Nat.zero_add, after_trigger acceptedR (n := 0) noReset (by omega),
      after_trigger acceptedQ (n := 0) noReset (by omega)]
    exact ⟨⟨rfl, rfl, rfl, rfl, rfl, rfl⟩, nofun⟩
  | succ n ih =>
    obtain ⟨same, -⟩ := ih (noReset.mono n.le_succ) fun j lo hi => timing j lo (hi.trans n.le_succ)
    have busyR := timing (n + 1) (by omega) le_rfl
    have busyQ : (q.after ins (n + 1)).mph ≠ .idle := same.mph ▸ busyR
    have rst := noReset (n + 1) le_rfl
    rw [after_succ_of_timing rst rfl busyR, after_succ_of_timing rst rfl busyQ]
    exact same.stepMeasure busyR _

/-- Settles O60: up to s_10 the frame's states are explicit; from s_11 on, and in a measurement, agreement is kept. -/
theorem noResultDependsOnThePast : Obligations.NoResultDependsOnThePast := by
  constructor
  · intro r q ins v k acceptedR acceptedQ lowR lowQ noReset lo hi
    obtain ⟨t, rfl⟩ := Nat.exists_eq_add_of_le lo
    have clock : q.dclk = r.dclk := lowQ.trans lowR.symm
    by_cases settle : t < 10
    · rw [Regs.after_settle acceptedR noReset settle, Regs.after_settle acceptedQ noReset settle]
      exact ⟨rfl, rfl, rfl, rfl, rfl, rfl, rfl, clock.symm, rfl, fun _ => ⟨rfl, rfl, rfl⟩, by omega⟩
    · obtain ⟨val, digit, fb, rbusy, rseq, bitix, sub, hold, stb, dclk, dio, rdone⟩ :=
        Regs.sameSerializer_after acceptedR acceptedQ clock noReset (t := t) (by omega) (by omega)
      exact ⟨val.symm, digit.symm, fb.symm, rbusy.symm, rseq.symm, hold.symm, stb.symm, dclk.symm, rdone.symm,
        by omega, fun _ => ⟨bitix.symm, sub.symm, dio.symm⟩⟩
  · intro r q ins n acceptedR acceptedQ noReset timing
    obtain ⟨⟨mph, trig, tcnt, wcnt, dcnt, mdone⟩, result⟩ := Regs.same_after_measure acceptedR acceptedQ noReset timing
    exact ⟨mph, trig, tcnt, wcnt, dcnt, mdone, result⟩

end Sys2Proof.Machine
end

section
/-! The receiver keeps up with the serializer (43_serialize.md section 8): after every tick it holds the whole bytes and
the bits sent of the open transaction. -/

namespace Sys2Proof.Machine

/-! ### What the receiver does in each kind of tick -/

section
variable {p q : Pins} {rx : Receiver}

/-- The strobe's fall opens a transaction (43_serialize.md R196). -/
theorem Receiver.observe_of_fall (up : p.stb = true) (low : q.stb = false) (clock : q.dclk = false) :
    rx.observe p q = { rx with trans := some [], bits := [] } := by
  simp [observe, openOn, closeOn, sampled, up, low, clock]

/-- The strobe's rise leaves nothing open, whatever was. -/
theorem Receiver.observe_rise_closes (low : p.stb = false) (up : q.stb = true) :
    (rx.observe p q).trans = none ∧ (rx.observe p q).bits = [] := by
  cases open_ : rx.trans <;> simp [observe, openOn, closeOn, sampled, low, up, open_]

/-- With the strobe low and no rise of the clock the receiver does nothing. -/
theorem Receiver.observe_of_low (before : p.stb = false) (after : q.stb = false) (noEdge : q.dclk = false) :
    rx.observe p q = rx := by
  simp [observe, openOn, closeOn, sampled, before, after, noEdge]

/-- The clock's rise with the strobe low takes a bit. -/
theorem Receiver.observe_of_clock (before : p.stb = false) (after : q.stb = false) (low : p.dclk = false)
    (high : q.dclk = true) : rx.observe p q = rx.take q.dio := by
  simp [observe, openOn, closeOn, sampled, before, after, low, high]

/-- The clock's rise with the strobe low completes what taking the bit completes. -/
theorem Receiver.received_of_clock (before : p.stb = false) (after : q.stb = false)
    (low : p.dclk = false) (high : q.dclk = true) : rx.received p q = rx.completes q.dio := by
  simp [received, openOn, sampled, before, after, low, high]

/-- A bit before the eighth is pending. -/
theorem Receiver.take_of_lt {bs : List Byte} (opened : rx.trans = some bs) (few : rx.bits.length < 7) (bit : Bool) :
    rx.take bit = { rx with bits := rx.bits ++ [bit] } := by
  simp only [take, opened, if_pos few]

/-- The eighth completes the byte. -/
theorem Receiver.take_of_eighth {bs : List Byte} (opened : rx.trans = some bs) (seven : rx.bits.length = 7) (bit : Bool) :
    rx.take bit = { rx with trans := some (bs ++ [byteOfBits (rx.bits ++ [bit])]), bits := [] } := by
  simp [take, opened, seven]

end

/-! ### What has been sent, micro-op by micro-op -/

/-- The whole bytes of its transaction sent before `FB[j]` (30_encoding.md R98). -/
def sentBefore (fb : Vector Byte 10) (j : Nat) : List Byte := (fb.toList.take j).drop (transactionStart j)

theorem sentBefore_of_start (fb : Vector Byte 10) {j : Nat} (first : transactionStart j = j) : sentBefore fb j = [] := by
  rw [sentBefore, first, List.drop_eq_nil_iff, List.length_take]
  exact Nat.min_le_left j _

theorem length_sentBefore (fb : Vector Byte 10) (j : Fin 10) : (sentBefore fb j).length = j - transactionStart j := by
  rw [sentBefore, List.length_drop, List.length_take, Vector.length_toList, Nat.min_eq_left j.isLt.le]

theorem sentBefore_succ (fb : Vector Byte 10) (j : Fin 10) (same : transactionStart (j + 1) = transactionStart j)
    (le : transactionStart j ≤ j) : sentBefore fb (j + 1) = sentBefore fb j ++ [fb[j]] := by
  have long : j.val < fb.toList.length := by simp
  rw [sentBefore, sentBefore, same, List.take_add_one, List.drop_append_of_le_length (by simp; omega)]
  simp

section
variable {r : Regs}

theorem Regs.sent_of_idle (idle : r.rbusy = false) : r.sentBytes = none ∧ r.sentBits = [] := by
  simp [sentBytes, sentBits, idle]

theorem Regs.byteSent_of_setup (sub : r.sub = .setup) : r.byteSent = false := by
  simp [byteSent, sub]

theorem Regs.byteSent_of_more (more : r.bitix ≠ 7) : r.byteSent = false := by
  rw [byteSent, decide_eq_false more, Bool.false_and]

theorem Regs.byteSent_of_ne_setup (sub : r.sub ≠ .setup) : r.byteSent = decide (r.bitix = 7) := by
  rw [byteSent, decide_eq_true sub, Bool.and_true]

theorem Regs.byteSent_of_last (last : r.bitix = 7) (sub : r.sub ≠ .setup) : r.byteSent = true :=
  (byteSent_of_ne_setup sub).trans (decide_eq_true last)

variable (sending : r.rbusy = true)
include sending

theorem Regs.sent_of_stb0 (op : microOp r.rseq = .stb0) : r.sentBytes = some [] ∧ r.sentBits = [] := by
  simp [sentBytes, sentBits, sending, op]

theorem Regs.sent_of_stb1 (op : microOp r.rseq = .stb1) : r.sentBytes = none ∧ r.sentBits = [] := by
  simp [sentBytes, sentBits, sending, op]

variable {j : Fin 10} (op : microOp r.rseq = .byte j)
include op

theorem Regs.sent_of_byteSent (sent : r.byteSent = true) :
    r.sentBytes = some (sentBefore r.fb j ++ [r.fb[j]]) ∧ r.sentBits = [] := by
  simp [sentBytes, sentBits, sending, op, sent, sentBefore]

theorem Regs.sent_of_not_byteSent (sent : r.byteSent = false) :
    r.sentBytes = some (sentBefore r.fb j) ∧
    r.sentBits = (List.range (r.bitix.toNat + if r.sub = .setup then 0 else 1)).map r.fb[j].getLsbD := by
  simp [sentBytes, sentBits, sending, op, sent, sentBefore]

end

/-! ### The sequence of micro-ops (43_serialize.md R181) -/

theorem microOp_before_stb0 : ∀ q : BitVec 4, microOp (q + 1) = .stb0 → microOp q = .stb1 := by decide

theorem microOp_before_stb1 : ∀ q : BitVec 4, microOp (q + 1) = .stb1 → ∃ j, microOp q = .byte j := by decide

/-- A byte is the first of its transaction, after the strobe's fall, or comes after the byte before it. -/
theorem microOp_before_byte_cases : ∀ (q : BitVec 4) (j : Fin 10), microOp (q + 1) = .byte j →
    (microOp q = .stb0 ∧ transactionStart j = j) ∨
    (∃ i : Fin 10, microOp q = .byte i ∧ j.val = i + 1 ∧ transactionStart (i + 1) = transactionStart i ∧
      transactionStart i ≤ i) := by
  decide

/-! ### The receiver's clauses of the invariant -/

/-- The receiver holds what CORE has sent of the open transaction: the two receiver clauses of `State.Inv`. -/
def Receiver.Holds (rx : Receiver) (r : Regs) : Prop := rx.trans = r.sentBytes ∧ rx.bits = r.sentBits

/-- Moving on to the next micro-op, with the clock low and the current byte sent. -/
theorem Regs.SerializerInv.holds_nextOp {r : Regs} (h : r.SerializerInv) (sending : r.rbusy = true)
    (clock : r.dclk = false) (finished : ∀ j, microOp r.rseq = .byte j → r.byteSent = true) {rx : Receiver}
    (holds : rx.Holds r) : (rx.observe r.pins (r.nextOp hardware).pins).Holds (r.nextOp hardware) := by
  have strobe := h.strobeLevel sending
  by_cases last : r.rseq = 15
  · have op : microOp r.rseq = .stb1 := by rw [last]; rfl
    obtain ⟨bytes, bits⟩ := sent_of_stb1 sending op
    rw [nextOp_of_last last]
    show (rx.observe r.pins r.pins).Holds _
    rw [Receiver.observe_same]
    exact ⟨holds.1.trans bytes, holds.2.trans bits⟩
  · rw [nextOp_of_ne_last last]
    cases next : microOp (r.rseq + 1) with
    | stb0 =>
      obtain ⟨bytes, bits⟩ := sent_of_stb0 (r := ({ r with rseq := r.rseq + 1 } : Regs).enter hardware .stb0) sending next
      rw [microOp_before_stb0 _ next] at strobe
      rw [Receiver.observe_of_fall strobe rfl clock]
      exact ⟨bytes.symm, bits.symm⟩
    | stb1 =>
      obtain ⟨bytes, bits⟩ := sent_of_stb1 (r := ({ r with rseq := r.rseq + 1 } : Regs).enter hardware .stb1) sending next
      obtain ⟨j, op⟩ := microOp_before_stb1 _ next
      rw [op] at strobe
      obtain ⟨noBytes, noBits⟩ := Receiver.observe_rise_closes (rx := rx) (p := r.pins)
        (q := (({ r with rseq := r.rseq + 1 } : Regs).enter hardware .stb1).pins) strobe rfl
      exact ⟨noBytes.trans bytes.symm, noBits.trans bits.symm⟩
    | byte j =>
      obtain ⟨bytes, bits⟩ := sent_of_not_byteSent
        (r := ({ r with rseq := r.rseq + 1 } : Regs).enter hardware (.byte j)) sending next rfl
      have low : r.stb = false := strobe.trans (microOp_before_byte _ ⟨j, next⟩)
      rw [Receiver.observe_of_low low low clock]
      rcases microOp_before_byte_cases _ _ next with ⟨op, first⟩ | ⟨i, op, succ, same, le⟩
      · obtain ⟨before, pending⟩ := sent_of_stb0 sending op
        refine ⟨(holds.1.trans before).trans (bytes.trans ?_).symm, (holds.2.trans pending).trans bits.symm⟩
        exact congrArg some (sentBefore_of_start _ first)
      · obtain ⟨before, pending⟩ := sent_of_byteSent sending op (finished i op)
        refine ⟨(holds.1.trans before).trans (bytes.trans ?_).symm, (holds.2.trans pending).trans bits.symm⟩
        rw [succ]
        exact congrArg some (sentBefore_succ r.fb i same le)

section
variable {r : Regs} (h : r.SerializerInv) (sending : r.rbusy = true) {j : Fin 10} (op : microOp r.rseq = .byte j)
  (sub : r.sub = .setup) {rx : Receiver} (holds : rx.Holds r)
include sending op sub holds

/-- Before a rise of the clock the bits below the current one are pending. -/
theorem Receiver.Holds.pending :
    rx.trans = some (sentBefore r.fb j) ∧ rx.bits = (List.range r.bitix.toNat).map r.fb[j].getLsbD := by
  obtain ⟨bytes, bits⟩ := Regs.sent_of_not_byteSent sending op (Regs.byteSent_of_setup sub)
  refine ⟨holds.1.trans bytes, ?_⟩
  rw [holds.2, bits, if_pos sub, Nat.add_zero]

theorem Receiver.Holds.pending_length : rx.bits.length = r.bitix.toNat := by
  rw [(holds.pending sending op sub).2, List.length_map, List.length_range]

include h

/-- The bit on the data line is the next one. -/
theorem Regs.SerializerInv.pending_append :
    rx.bits ++ [r.dio] = (List.range (r.bitix.toNat + 1)).map r.fb[j].getLsbD := by
  rw [(holds.pending sending op sub).2, h.dataLevel sending j op, List.range_succ, List.map_append, List.map_singleton]

/-- So the eighth bit completes the byte that is sent. -/
theorem Regs.SerializerInv.byteOfBits_pending (last : r.bitix = 7) : byteOfBits (rx.bits ++ [r.dio]) = r.fb[j] := by
  rw [h.pending_append sending op sub holds, last]
  exact byteOfBits_bits r.fb[j]

/-- The clock's rise: the receiver takes the bit on the data line, which the eighth time completes the byte. -/
theorem Regs.SerializerInv.holds_clockRise (n : Nat) :
    let next := ({ r with dclk := true, sub := .high } : Regs).startHold n
    (rx.observe r.pins next.pins).Holds next := by
  intro next
  have low : r.stb = false := (h.strobeLevel sending).trans (by rw [op]; rfl)
  have clock := h.clockLow sending (.inr (by rw [sub]; decide))
  have opened := (holds.pending sending op sub).1
  have count := holds.pending_length sending op sub
  rw [Receiver.observe_of_clock low low clock rfl]
  by_cases last : r.bitix = 7
  · obtain ⟨nextBytes, nextBits⟩ := sent_of_byteSent (r := next) sending op (byteSent_of_last last nofun)
    rw [Receiver.take_of_eighth opened (count.trans (congrArg BitVec.toNat last))]
    refine ⟨Eq.trans ?_ nextBytes.symm, nextBits.symm⟩
    exact congrArg (fun b => some (sentBefore r.fb j ++ [b])) (h.byteOfBits_pending sending op sub holds last)
  · have few : r.bitix.toNat ≠ 7 := fun seven => last (BitVec.eq_of_toNat_eq seven)
    have bound := r.bitix.isLt
    obtain ⟨nextBytes, nextBits⟩ := sent_of_not_byteSent (r := next) sending op (byteSent_of_more last)
    rw [Receiver.take_of_lt opened (by omega)]
    exact ⟨opened.trans nextBytes.symm, (h.pending_append sending op sub holds).trans nextBits.symm⟩

/-- The eighth bit brings the byte, in its slot. -/
theorem Regs.SerializerInv.received_clockRise (last : r.bitix = 7) (n : Nat) :
    rx.received r.pins (({ r with dclk := true, sub := .high } : Regs).startHold n).pins =
      some (frameSlot j, r.fb[j]) := by
  have low : r.stb = false := (h.strobeLevel sending).trans (by rw [op]; rfl)
  have clock := h.clockLow sending (.inr (by rw [sub]; decide))
  have opened := (holds.pending sending op sub).1
  have seven := (holds.pending_length sending op sub).trans (congrArg BitVec.toNat last)
  rw [Receiver.received_of_clock low low clock rfl, Receiver.completes_eighth _ _ _ opened seven, length_sentBefore]
  exact congrArg (fun b => some (frameSlot j, b)) (h.byteOfBits_pending sending op sub holds last)

omit h in
/-- A bit before the eighth brings none. -/
theorem Receiver.Holds.received_none (more : r.bitix ≠ 7) (q : Pins) (low : r.stb = false) :
    rx.received r.pins q = none := by
  have bound := r.bitix.isLt
  have few : r.bitix.toNat ≠ 7 := fun seven => more (BitVec.eq_of_toNat_eq seven)
  have count := holds.pending_length sending op sub
  have unopened : rx.openOn r.pins q = rx := by simp [Receiver.openOn, low]
  rw [Receiver.received, unopened, Receiver.completes_none _ _ (by omega), ite_self]

end

/-- A tick of a running frame. -/
theorem Regs.SerializerInv.holds_stepRender {r : Regs} (h : r.SerializerInv) (sending : r.rbusy = true) {rx : Receiver}
    (holds : rx.Holds r) : (rx.observe r.pins (r.stepRender hardware).pins).Holds (r.stepRender hardware) := by
  have strobe := h.strobeLevel sending
  rcases r.stepRender_cases hardware with ⟨-, eq⟩ | ⟨-, noByte, eq⟩ | ⟨j, -, op, sub, eq⟩ | ⟨j, -, op, sub, eq⟩ |
    ⟨j, -, op, sub, last, eq⟩ | ⟨j, -, op, sub, more, eq⟩ <;> rw [eq]
  · show (rx.observe r.pins r.pins).Holds r
    rwa [Receiver.observe_same]
  · exact h.holds_nextOp sending (h.clockLow sending (.inl noByte)) (fun j op => absurd op (noByte j)) holds
  · exact h.holds_clockRise sending op sub holds _
  · have low : r.stb = false := strobe.trans (by rw [op]; rfl)
    let next : Regs := ({ r with dclk := false, sub := .low } : Regs).startHold hardware.tCkl
    rw [Receiver.observe_of_low low low rfl]
    by_cases last : r.bitix = 7
    · obtain ⟨bytes, bits⟩ := sent_of_byteSent sending op (byteSent_of_last last (by rw [sub]; decide))
      obtain ⟨nextBytes, nextBits⟩ := sent_of_byteSent (r := next) sending op (byteSent_of_last last nofun)
      exact ⟨holds.1.trans (bytes.trans nextBytes.symm), holds.2.trans (bits.trans nextBits.symm)⟩
    · obtain ⟨bytes, bits⟩ := sent_of_not_byteSent sending op (byteSent_of_more last)
      obtain ⟨nextBytes, nextBits⟩ := sent_of_not_byteSent (r := next) sending op (byteSent_of_more last)
      rw [sub] at bits
      exact ⟨holds.1.trans (bytes.trans nextBytes.symm), holds.2.trans (bits.trans nextBits.symm)⟩
  · exact h.holds_nextOp sending (h.clockLow sending (.inr (by rw [sub]; decide)))
      (fun _ _ => byteSent_of_last last (by rw [sub]; decide)) holds
  · have low : r.stb = false := strobe.trans (by rw [op]; rfl)
    have clock := h.clockLow sending (.inr (by rw [sub]; decide))
    have few : r.bitix.toNat ≠ 7 := fun seven => more (BitVec.eq_of_toNat_eq seven)
    have bound := r.bitix.isLt
    have bitix : (r.bitix + 1).toNat = r.bitix.toNat + 1 := toNat_add_one (n := 7) (by omega) few (by decide)
    let next : Regs := ({ r with
      bitix := r.bitix + 1, sub := .setup, dio := r.fb[j].getLsbD (r.bitix.toNat + 1) } : Regs).startHold hardware.tDsu
    obtain ⟨bytes, bits⟩ := sent_of_not_byteSent sending op (byteSent_of_more more)
    obtain ⟨nextBytes, nextBits⟩ := sent_of_not_byteSent (r := next) sending op (byteSent_of_setup rfl)
    rw [sub] at bits
    rw [show next.bitix.toNat = _ from bitix] at nextBits
    rw [Receiver.observe_of_low low low clock]
    exact ⟨holds.1.trans (bytes.trans nextBytes.symm), holds.2.trans (bits.trans nextBits.symm)⟩

/-- A tick of CORE, whatever its branch. -/
theorem Regs.Inv.holds_step {r : Regs} (h : r.Inv) (i : Inputs) {rx : Receiver} (holds : rx.Holds r) :
    (rx.observe r.pins (r.step i).pins).Holds (r.step i) := by
  rcases r.step_cases i with ⟨-, eq⟩ | ⟨-, timing, eq⟩ | ⟨-, -, sending, eq⟩ | ⟨-, eq⟩ | ⟨v, ⟨idle, -⟩, eq⟩ |
    ⟨-, -, eq⟩ <;> rw [eq]
  · cases strobe : r.stb with
    | false => exact Receiver.observe_rise_closes strobe rfl
    | true =>
      rw [Receiver.observe_of_high strobe rfl]
      cases sending : r.rbusy with
      | false =>
        obtain ⟨bytes, bits⟩ := sent_of_idle sending
        exact ⟨holds.1.trans bytes, holds.2.trans bits⟩
      | true =>
        have level := (h.serializer.strobeLevel sending).symm.trans strobe
        cases op : microOp r.rseq with
        | stb1 =>
          obtain ⟨bytes, bits⟩ := sent_of_stb1 sending op
          exact ⟨holds.1.trans bytes, holds.2.trans bits⟩
        | stb0 | byte j => rw [op] at level; cases level
  · have same := r.stepMeasure_sameSerializer i.echo
    have idle := h.oneEngine timing
    obtain ⟨bytes, bits⟩ := sent_of_idle idle
    obtain ⟨nextBytes, nextBits⟩ := sent_of_idle (same.rbusy.trans idle)
    rw [same.pins, Receiver.observe_same]
    exact ⟨holds.1.trans (bytes.trans nextBytes.symm), holds.2.trans (bits.trans nextBits.symm)⟩
  · exact h.serializer.holds_stepRender sending holds
  · show (rx.observe r.pins r.pins).Holds r
    rwa [Receiver.observe_same]
  · obtain ⟨-, serializer⟩ := r.busy_eq_false_iff.mp idle
    obtain ⟨strobe, clock, -⟩ := h.serializer.idlePins serializer
    rw [Receiver.observe_of_fall strobe rfl clock]
    exact ⟨rfl, rfl⟩
  · rwa [Receiver.observe_same]

/-- Settles O50: CORE by O49, the receiver tick by tick, the stores by what `deliver` can do. -/
theorem stepKeepsTheMachineInvariant : Obligations.StepKeepsTheMachineInvariant := by
  intro s t inv stepped
  have holds := inv.core.holds_step s.sample (rx := s.disp.rx) ⟨inv.trans, inv.bits⟩
  obtain ⟨d, delivered, observed, stores⟩ :=
    deliver_cases s.core.pins { s.consume with core := s.core.step s.sample }
  cases stepped.symm.trans ((step_eq_deliver s).trans delivered)
  refine ⟨stepKeepsTheCoreInvariant s.core s.sample inv.core, stores inv.stores, ?_, ?_⟩ <;>
    rw [show d.rx = _ from observed]
  · exact holds.1
  · exact holds.2

end Sys2Proof.Machine
end

section
/-! One whole RENDER as the display gets it (43_serialize.md section 8; 20_memory.md sections 1, 2 and 8): after each tick
the device stands where the bytes sent and the windows closed so far have brought it. -/

namespace Sys2Proof.Machine

/-! ### How far a frame has come -/

/-- The frame bytes sent whole: those of the micro-ops before the current one, and the current one when it is sent. -/
def Regs.bytesSent (r : Regs) : Nat :=
  (frameSequence.toList.take r.rseq.toNat).countP MicroOp.sends + if (microOp r.rseq).sends && r.byteSent then 1 else 0

/-- The strobe windows closed: one at each STB1 entered. -/
def Regs.windowsClosed (r : Regs) : Nat := (frameSequence.toList.take (r.rseq.toNat + 1)).count .stb1

theorem countP_sends_succ : ∀ q : BitVec 4, q ≠ 15 →
    (frameSequence.toList.take (q + 1).toNat).countP MicroOp.sends =
      (frameSequence.toList.take q.toNat).countP MicroOp.sends + if (microOp q).sends then 1 else 0 := by
  decide

theorem count_stb1_succ : ∀ q : BitVec 4, q ≠ 15 →
    (frameSequence.toList.take ((q + 1).toNat + 1)).count .stb1 =
      (frameSequence.toList.take (q.toNat + 1)).count .stb1 + if microOp (q + 1) = .stb1 then 1 else 0 := by
  decide

/-- Where a byte stands: after the bytes before it, in the first, second or third window. -/
theorem place_of_byte : ∀ (q : BitVec 4) (j : Fin 10), microOp q = .byte j →
    (frameSequence.toList.take q.toNat).countP MicroOp.sends = j ∧
    (frameSequence.toList.take (q.toNat + 1)).count .stb1 = if j.val = 0 then 0 else if j.val = 9 then 2 else 1 := by
  decide

/-- A window closes behind the bytes 0, 8 and 9. -/
theorem byte_before_stb1 : ∀ (q : BitVec 4) (j : Fin 10), microOp (q + 1) = .stb1 → microOp q = .byte j →
    j = 0 ∨ j = 8 ∨ j = 9 := by
  decide

/-! ### What the device shows -/

/-- The three transactions of a frame (43_serialize.md R181). -/
def frameTransactions (fb : Vector Byte 10) : List (List Byte) :=
  [[fb[0]], [fb[1], fb[2], fb[3], fb[4], fb[5], fb[6], fb[7], fb[8]], [fb[9]]]

/-- The device `d`, which was `d0` before the frame `fb`, after `m` of its bytes and `n` of its windows: CMD_DATA acts at
the first window's end, the address byte and the data bytes as they arrive, the second window latches, CMD_DISP acts at
the third window's end (20_memory.md R61, R75). -/
structure Display.Shows (d0 : Display) (fb : Vector Byte 10) (m n : Nat) (d : Display) : Prop where
  closed : d.rx.closed = d0.rx.closed ++ (frameTransactions fb).take n
  autoInc : 1 ≤ n → d.autoInc = true
  addr : 2 ≤ m → m ≤ 9 → d.addr = m - 2
  columns : ∀ x, d.ram.readByte x = if x < 7 ∧ x + 2 < m then fb[x + 2]? else d0.ram.readByte x
  latched : 2 ≤ n → ∀ x, d.latched.readByte x = d.ram.readByte x
  control : 3 ≤ n → d.on = true ∧ d.level = 7

section
variable {d0 d : Display} {fb : Vector Byte 10} {m n : Nat}

/-- The device does not look at the receiver's open transaction. -/
theorem Display.Shows.observe (h : d0.Shows fb m n d) {rx : Receiver} (closed : rx.closed = d.rx.closed) :
    d0.Shows fb m n { d with rx := rx } :=
  ⟨closed.trans h.closed, h.autoInc, h.addr, h.columns, h.latched, h.control⟩

/-- A command byte that waits for the strobe changes nothing when it arrives. -/
theorem Display.Shows.wait (h : d0.Shows fb m n d) (waits : m = 0 ∨ m = 9) : d0.Shows fb (m + 1) n d := by
  refine ⟨h.closed, h.autoInc, fun lo hi => by omega, fun x => ?_, h.latched, h.control⟩
  rw [h.columns x]
  exact if_congr (by omega) rfl rfl

/-- The address byte sets the address. -/
theorem Display.Shows.address (h : d0.Shows fb 1 n d) : d0.Shows fb 2 n { d with addr := 0 } := by
  refine ⟨h.closed, h.autoInc, fun _ _ => rfl, fun x => ?_, h.latched, h.control⟩
  exact (h.columns x).trans (if_congr (by omega) rfl rfl)

/-- A data byte goes to its column. -/
theorem Display.Shows.store (h : d0.Shows fb m n d) (lo : 2 ≤ m) (hi : m ≤ 8) (window : n ≤ 1)
    (addressed : d.addressed = true) (tick : Nat) {b : Byte} (hb : fb[m]? = some b) :
    d0.Shows fb (m + 1) n (d.storeData tick b) := by
  have addr := h.addr lo (by omega)
  refine ⟨h.closed, h.autoInc, fun _ _ => ?_, fun x => ?_, fun latches => by omega, fun on => by omega⟩
  · rw [storeData_addr_of_addressed tick addressed b, addr]
    omega
  · rw [storeData_ram, column_of_addressed tick addressed, addr, Memory.readByte_writeByte, h.columns x]
    by_cases here : x = m - 2
    · subst here
      rw [if_pos rfl, if_pos (by omega), show m - 2 + 2 = m by omega, hb]
    · rw [if_neg here]
      exact if_congr (by omega) rfl rfl

end

/-! ### Arriving bytes and closing windows -/

/-- A byte behind the first of a transaction is stored, listed or not (20_memory.md R61). -/
theorem arrive_data {slot : Slot} (onBus : slot ≠ .port) (later : slot ≠ .first) (b : Byte) (s : State) :
    arrive slot b s = .next (s.storeData b) := by
  have noWait : ∀ row ∈ dataRows, waitsForStrobe row.1 = false := by decide
  rw [arrive]
  cases decoded : decode slot (.bus8 b) with
  | error e => exact congrArg Host.Outcome.next (if_neg later)
  | ok i =>
    obtain ⟨word, legal⟩ := encode_of_decode decoded
    obtain ⟨b', word', row⟩ := dataRow_of_wellFormed onBus later legal
    obtain rfl : b = b' := Code.bus8.inj (word.symm.trans word')
    dsimp only
    rw [noWait _ row, exec_dataRow row]
    rfl

section
variable (B : Vector DigitCode 4)

/-- The second transaction begins with the address command. -/
theorem head?_sent_of_second_window {j : Nat} (lo : 2 ≤ j) (start : transactionStart j = 1) (b : Byte) :
    (sentBefore (frame hardware B) j ++ [b]).head? = some hardware.cmdAddr := by
  obtain ⟨k, rfl⟩ := Nat.exists_eq_add_of_le' lo
  rw [sentBefore, start]
  rfl

/-- A frame byte arrives in its slot: the device comes one byte further. -/
theorem arrive_frameByte {d0 : Display} {n : Nat} {s : State} (j : Fin 10)
    (window : n = if j.val = 0 then 0 else if j.val = 9 then 2 else 1)
    (shows : d0.Shows (frame hardware B) j n s.disp)
    (opened : s.disp.rx.trans = some (sentBefore (frame hardware B) j ++ [(frame hardware B)[j]])) :
    ∃ d, arrive (frameSlot j) (frame hardware B)[j] s = .next { s with disp := d } ∧
      d0.Shows (frame hardware B) (j + 1) n d := by
  have data : ∀ k : Fin 10, 2 ≤ k.val → k.val ≤ 8 → frameSlot k ≠ .port ∧ frameSlot k ≠ .first ∧
      transactionStart k = 1 := by decide
  by_cases command : j = 0 ∨ j = 9
  · refine ⟨s.disp, ?_, shows.wait (by rcases command with rfl | rfl <;> simp)⟩
    rcases command with rfl | rfl <;> rfl
  by_cases address : j = 1
  · subst address
    exact ⟨_, rfl, shows.address⟩
  · have lo : 2 ≤ j.val := by omega
    have hi : j.val ≤ 8 := by omega
    obtain ⟨onBus, later, start⟩ := data j lo hi
    have second : n = 1 := by rw [window, if_neg (by omega), if_neg (by omega)]
    have auto := shows.autoInc second.ge
    have addressed : s.disp.addressed = true := by
      rw [Display.addressed, auto, opened, Option.bind_some, head?_sent_of_second_window B lo start]
      decide
    exact ⟨_, arrive_data onBus later _ s,
      shows.store lo hi second.le addressed s.tick (Vector.getElem?_eq_getElem j.isLt)⟩

/-- A window closes behind its last byte, which commits its transaction: the device comes one window further. -/
theorem commit_frameWindow {d0 : Display} {m n : Nat} {s : State} (j : Fin 10) (lastOfWindow : j = 0 ∨ j = 8 ∨ j = 9)
    (window : n = if j.val = 0 then 0 else if j.val = 9 then 2 else 1)
    (shows : d0.Shows (frame hardware B) m n s.disp) :
    ∃ d, commit (sentBefore (frame hardware B) j ++ [(frame hardware B)[j]]) { s with disp := { s.disp with
        rx := { trans := none, bits := [],
                closed := s.disp.rx.closed ++ [sentBefore (frame hardware B) j ++ [(frame hardware B)[j]]] } } } =
      .next { s with disp := d } ∧ d0.Shows (frame hardware B) m (n + 1) d := by
  obtain ⟨closed, autoInc, addr, columns, latched, control⟩ := shows
  rcases lastOfWindow with rfl | rfl | rfl
  · obtain rfl : n = 0 := window
    refine ⟨_, commit_listed 0x40 [] _ (by decide), ?_, fun _ => Bool.or_true _, addr, columns, nofun, nofun⟩
    rw [closed, List.append_assoc]
    rfl
  · obtain rfl : n = 1 := window
    refine ⟨_, commit_listed 0xC0 (seg hardware B[0] :: _) _ (by decide), ?_, fun _ => ?_, addr, columns, fun _ _ => rfl,
      nofun⟩
    · rw [closed, List.append_assoc]
      rfl
    · rw [autoInc le_rfl]
      rfl
  · obtain rfl : n = 2 := window
    refine ⟨_, commit_listed 0x8F [] _ (by decide), ?_, fun _ => ?_, addr, columns, fun _ => latched le_rfl,
      fun _ => ⟨Bool.or_true _, rfl⟩⟩
    · rw [closed, List.append_assoc]
      rfl
    · rw [autoInc (by decide)]
      rfl

end

/-! ### A tick of the frame at the device -/

section
variable {d0 : Display} {fb : Vector Byte 10} {m n : Nat} {p : Pins} {s : State}

/-- Only the strobe's rise closes a transaction. -/
theorem Receiver.observe_closed {p q : Pins} (rx : Receiver) (noRise : p.stb = true ∨ q.stb = false) :
    (rx.observe p q).closed = rx.closed := by
  have kept : ∀ (rx : Receiver) (bit : Bool), (rx.take bit).closed = rx.closed := fun rx bit => by
    unfold Receiver.take
    split
    · rfl
    · split <;> rfl
  have opened : (rx.openOn p q).closed = rx.closed := by unfold Receiver.openOn; split <;> rfl
  have notClosing : ¬(!p.stb && q.stb) = true := by rcases noRise with h | h <;> simp [h]
  rw [Receiver.observe, Receiver.closeOn, if_neg notClosing]
  split
  · exact (kept _ _).trans opened
  · exact opened

theorem Receiver.cut_of_no_rise {p q : Pins} (rx : Receiver) (noRise : p.stb = true ∨ q.stb = false) :
    rx.cut p q = false := by
  rcases noRise with h | h <;> simp [Receiver.cut, h]

/-- A tick without a rise of the strobe and without a whole byte changes the receiver only. -/
theorem Display.Shows.deliver_quiet (shows : d0.Shows fb m n s.disp) (noRise : p.stb = true ∨ s.core.stb = false)
    (noByte : s.disp.rx.received p s.core.pins = none) :
    ∃ d, deliver p s = .next { s with disp := d } ∧ d0.Shows fb m n d := by
  rw [deliver_of_quiet noByte (Receiver.committed_none _ _ _ noRise),
    State.watch_uncut _ _ _ (Receiver.cut_of_no_rise _ noRise)]
  exact ⟨_, rfl, shows.observe (Receiver.observe_closed _ noRise)⟩

/-- A tick that moves no pin changes nothing. -/
theorem Display.Shows.deliver_same (shows : d0.Shows fb m n s.disp) (pins : s.core.pins = p) :
    ∃ d, deliver p s = .next { s with disp := d } ∧ d0.Shows fb m n d :=
  ⟨s.disp, Machine.deliver_same p s pins, shows⟩

end

/-! #### The counts of bytes and windows -/

section
variable {r : Regs} {j : Fin 10}

theorem Regs.bytesSent_of_byteSent (op : microOp r.rseq = .byte j) (sent : r.byteSent = true) :
    r.bytesSent = j + 1 := by
  simp [bytesSent, op, MicroOp.sends, sent, (place_of_byte _ j op).1]

theorem Regs.bytesSent_of_not_byteSent (op : microOp r.rseq = .byte j) (sent : r.byteSent = false) :
    r.bytesSent = j := by
  simp [bytesSent, sent, (place_of_byte _ j op).1]

theorem Regs.windowsClosed_of_byte (op : microOp r.rseq = .byte j) :
    r.windowsClosed = if j.val = 0 then 0 else if j.val = 9 then 2 else 1 := (place_of_byte _ j op).2

/-- At the last micro-op all has been sent. -/
theorem Regs.progress_of_last (last : r.rseq = 15) : r.bytesSent = 10 ∧ r.windowsClosed = 3 := by
  have noByte : (microOp 15).sends = false := rfl
  rw [bytesSent, windowsClosed, last, noByte, Bool.false_and]
  decide

variable (c : Config)

theorem Regs.windowsClosed_enter (more : r.rseq ≠ 15) :
    (({ r with rseq := r.rseq + 1 } : Regs).enter c (microOp (r.rseq + 1))).windowsClosed =
      r.windowsClosed + if microOp (r.rseq + 1) = .stb1 then 1 else 0 := by
  obtain ⟨-, -, -, -, -, rseq, -⟩ := ({ r with rseq := r.rseq + 1 } : Regs).enter_keeps c (microOp (r.rseq + 1))
  rw [windowsClosed, rseq]
  exact count_stb1_succ r.rseq more

/-- Nothing of the next micro-op is sent on entering it. -/
theorem Regs.bytesSent_enter (more : r.rseq ≠ 15) (finished : ∀ j, microOp r.rseq = .byte j → r.byteSent = true) :
    (({ r with rseq := r.rseq + 1 } : Regs).enter c (microOp (r.rseq + 1))).bytesSent = r.bytesSent := by
  obtain ⟨-, -, -, -, -, rseq, -⟩ := ({ r with rseq := r.rseq + 1 } : Regs).enter_keeps c (microOp (r.rseq + 1))
  have fresh : ((microOp (r.rseq + 1)).sends &&
      (({ r with rseq := r.rseq + 1 } : Regs).enter c (microOp (r.rseq + 1))).byteSent) = false := by
    cases microOp (r.rseq + 1) <;> rfl
  have sent : ((microOp r.rseq).sends && r.byteSent) = (microOp r.rseq).sends := by
    cases op : microOp r.rseq with
    | stb0 | stb1 => rfl
    | byte j => rw [finished j op]; rfl
  rw [bytesSent, bytesSent, rseq, fresh, sent]
  exact countP_sends_succ r.rseq more

end

/-- What the device shows when CORE is in state `r` of the frame, or past its end. -/
def Regs.ShownBy (d0 : Display) (B : Vector DigitCode 4) (r : Regs) (d : Display) : Prop :=
  if r.rbusy then d0.Shows (frame hardware B) r.bytesSent r.windowsClosed d else d0.Shows (frame hardware B) 10 3 d

section
variable {d0 : Display} {B : Vector DigitCode 4} {r : Regs} {d : Display}

theorem Regs.shownBy_of_sending (sending : r.rbusy = true) :
    r.ShownBy d0 B d ↔ d0.Shows (frame hardware B) r.bytesSent r.windowsClosed d := by
  rw [ShownBy, if_pos sending]

theorem Regs.shownBy_of_idle (idle : r.rbusy = false) : r.ShownBy d0 B d ↔ d0.Shows (frame hardware B) 10 3 d := by
  rw [ShownBy, if_neg (Bool.eq_false_iff.mp idle)]

/-- Where the counts are known, so is what the device shows. -/
theorem Regs.shownBy_of_progress {m n : Nat} (sending : r.rbusy = true) (bytes : r.bytesSent = m)
    (windows : r.windowsClosed = n) : r.ShownBy d0 B d ↔ d0.Shows (frame hardware B) m n d := by
  rw [shownBy_of_sending sending, bytes, windows]

variable (h : r.SerializerInv) (sending : r.rbusy = true) (fb : r.fb = frame hardware B) {s : State}
  (holds : s.disp.rx.Holds r) (shown : r.ShownBy d0 B s.disp)
include h sending holds shown

include fb in
/-- Moving on to the next micro-op: the device acts when this closes a window. -/
theorem Regs.SerializerInv.shownBy_nextOp (clock : r.dclk = false)
    (finished : ∀ j, microOp r.rseq = .byte j → r.byteSent = true) (core : s.core = r.nextOp hardware) :
    ∃ d, deliver r.pins s = .next { s with disp := d } ∧ s.core.ShownBy d0 B d := by
  have shows := (shownBy_of_sending sending).mp shown
  by_cases last : r.rseq = 15
  · obtain ⟨bytes, windows⟩ := progress_of_last last
    rw [nextOp_of_last last] at core
    rw [bytes, windows] at shows
    have ended : s.core.rbusy = false := by rw [core]
    simp only [shownBy_of_idle ended]
    exact shows.deliver_same (by rw [core]; rfl)
  · rw [nextOp_of_ne_last last] at core
    obtain ⟨-, -, -, -, busy, -, dclk, -⟩ :=
      ({ r with rseq := r.rseq + 1 } : Regs).enter_keeps hardware (microOp (r.rseq + 1))
    rw [← core] at busy dclk
    have bytes := bytesSent_enter hardware last finished
    have windows := windowsClosed_enter hardware last
    rw [← core] at bytes windows
    simp only [shownBy_of_progress (busy.trans sending) bytes windows]
    have noByte : s.disp.rx.received r.pins s.core.pins = none :=
      Receiver.received_none_of_clock _ _ _ (.inl (dclk.trans clock))
    cases next : microOp (r.rseq + 1) with
    | stb0 => exact shows.deliver_quiet (.inr (by rw [core, next]; rfl)) noByte
    | byte j =>
      have low : r.stb = false := (h.strobeLevel sending).trans (microOp_before_byte _ ⟨j, next⟩)
      exact shows.deliver_quiet (.inr (by rw [core, next]; exact low)) noByte
    | stb1 =>
      obtain ⟨j, op⟩ := microOp_before_stb1 _ next
      have low : r.stb = false := (h.strobeLevel sending).trans (by rw [op]; rfl)
      obtain ⟨sent, noBits⟩ := sent_of_byteSent sending op (finished j op)
      rw [fb] at sent
      rw [deliver_of_rise low (by rw [core, next]; rfl) (holds.2.trans noBits) (holds.1.trans sent)]
      exact commit_frameWindow B j (byte_before_stb1 _ j next op) (windowsClosed_of_byte op) shows

include fb in
/-- The clock's rise: the device acts when this completes a byte. -/
theorem Regs.SerializerInv.shownBy_clockRise {j : Fin 10} (op : microOp r.rseq = .byte j) (sub : r.sub = .setup) {n : Nat}
    (core : s.core = ({ r with dclk := true, sub := .high } : Regs).startHold n) :
    ∃ d, deliver r.pins s = .next { s with disp := d } ∧ s.core.ShownBy d0 B d := by
  have shows := (shownBy_of_sending sending).mp shown
  rw [bytesSent_of_not_byteSent op (byteSent_of_setup sub), windowsClosed_of_byte op] at shows
  have low : r.stb = false := (h.strobeLevel sending).trans (by rw [op]; rfl)
  have lowNext : s.core.stb = false := by rw [core]; exact low
  have busy : s.core.rbusy = true := by rw [core]; exact sending
  have opNext : microOp s.core.rseq = .byte j := by rw [core]; exact op
  have windows := windowsClosed_of_byte opNext
  by_cases last : r.bitix = 7
  · have sent : s.core.byteSent = true := byteSent_of_last (by rw [core]; exact last) (by rw [core]; nofun)
    have next : (s.disp.rx.observe r.pins s.core.pins).Holds s.core := by
      rw [core]
      exact h.holds_clockRise sending op sub holds n
    have fbNext : s.core.fb = frame hardware B := by rw [core]; exact fb
    have opened := next.1.trans (sent_of_byteSent busy opNext sent).1
    rw [fbNext] at opened
    have received : s.disp.rx.received r.pins s.core.pins = some (frameSlot j, (frame hardware B)[j]) := by
      rw [core, h.received_clockRise sending op sub holds last, fb]
    rw [deliver_of_received received, State.watch_uncut _ _ _ (Receiver.cut_of_no_rise _ (.inr lowNext))]
    simp only [shownBy_of_progress busy (bytesSent_of_byteSent opNext sent) windows]
    exact arrive_frameByte B j rfl (shows.observe (Receiver.observe_closed _ (.inr lowNext))) opened
  · have more : s.core.byteSent = false := byteSent_of_more (by rw [core]; exact last)
    simp only [shownBy_of_progress busy (bytesSent_of_not_byteSent opNext more) windows]
    exact shows.deliver_quiet (.inr lowNext) (holds.received_none sending op sub last _ low)

omit holds in
/-- Inside a byte the clock's fall and the next bit are nothing to the device. -/
theorem Regs.SerializerInv.shownBy_inByte {j : Fin 10} (op : microOp r.rseq = .byte j) (busy : s.core.rbusy = true)
    (rseq : s.core.rseq = r.rseq) (sent : s.core.byteSent = r.byteSent) (stb : s.core.stb = r.stb)
    (clock : s.core.dclk = false) :
    ∃ d, deliver r.pins s = .next { s with disp := d } ∧ s.core.ShownBy d0 B d := by
  have shows := (shownBy_of_sending sending).mp shown
  have low : r.stb = false := (h.strobeLevel sending).trans (by rw [op]; rfl)
  have bytes : s.core.bytesSent = r.bytesSent := by rw [bytesSent, bytesSent, rseq, sent]
  have windows : s.core.windowsClosed = r.windowsClosed := by rw [windowsClosed, windowsClosed, rseq]
  simp only [shownBy_of_progress busy bytes windows]
  exact shows.deliver_quiet (.inr (stb.trans low)) (Receiver.received_none_of_clock _ _ _ (.inl clock))

include fb in
/-- A tick of the frame. -/
theorem Regs.SerializerInv.shownBy_stepRender (core : s.core = r.stepRender hardware) :
    ∃ d, deliver r.pins s = .next { s with disp := d } ∧ s.core.ShownBy d0 B d := by
  rcases r.stepRender_cases hardware with ⟨-, eq⟩ | ⟨-, noByte, eq⟩ | ⟨j, -, op, sub, eq⟩ | ⟨j, -, op, sub, eq⟩ |
    ⟨j, -, op, sub, last, eq⟩ | ⟨j, -, op, sub, more, eq⟩ <;> rw [eq] at core
  · refine ⟨s.disp, deliver_same _ _ (by rw [core]; rfl), ?_⟩
    rw [core]
    exact shown
  · exact h.shownBy_nextOp sending fb holds shown (h.clockLow sending (.inl noByte))
      (fun j op => absurd op (noByte j)) core
  · exact h.shownBy_clockRise sending fb holds shown op sub core
  · have sent : s.core.byteSent = r.byteSent := by
      rw [byteSent_of_ne_setup (by rw [core]; nofun), byteSent_of_ne_setup (by rw [sub]; decide), core]
      rfl
    exact h.shownBy_inByte sending shown op (by rw [core]; exact sending) (by rw [core]; rfl) sent (by rw [core]; rfl)
      (by rw [core]; rfl)
  · exact h.shownBy_nextOp sending fb holds shown (h.clockLow sending (.inr (by rw [sub]; decide)))
      (fun _ _ => byteSent_of_last last (by rw [sub]; decide)) core
  · exact h.shownBy_inByte sending shown op (by rw [core]; exact sending) (by rw [core]; rfl)
      (by rw [core, byteSent_of_more more, byteSent_of_setup rfl]) (by rw [core]; rfl)
      (by rw [core]; exact h.clockLow sending (.inr (by rw [sub]; decide)))

end

/-! ### The whole run -/

theorem State.runFor_succ {s u : State} (stepped : step s = .next u) (n : Nat) : s.runFor (n + 1) = u.runFor n := by
  unfold State.runFor
  simp only [Host.Core.run]
  rw [show Sys2Proof.core.step s = .next u from stepped]

/-- A run whose every step goes on and keeps a count of what has happened. -/
theorem runFor_of_kept {P : Nat → State → Prop} {n : Nat}
    (keep : ∀ k, k < n → ∀ s, P k s → ∃ t, step s = .next t ∧ P (k + 1) t) {s : State} (start : P 0 s) :
    ∃ t, s.runFor n = .next t ∧ P n t := by
  induction n generalizing P s with
  | zero => exact ⟨s, rfl, start⟩
  | succ n ih =>
    obtain ⟨u, stepped, kept⟩ := keep 0 n.succ_pos s start
    obtain ⟨t, ran, reached⟩ := ih (P := fun k => P (k + 1)) (fun k hk => keep (k + 1) (Nat.succ_lt_succ hk)) kept
    exact ⟨t, (State.runFor_succ stepped n).trans ran, reached⟩

/-- No reset is presented in the next `n` steps, whose input records are listed. -/
def State.QuietFor (n : Nat) (s : State) : Prop := n ≤ s.inputs.length ∧ ∀ i ∈ s.inputs.take n, i.rst = false

theorem State.QuietFor.step {n : Nat} {s t : State} (h : s.QuietFor (n + 1)) (used : t.inputs = s.inputs.tail) :
    s.sample.rst = false ∧ t.QuietFor n := by
  obtain ⟨long, quiet⟩ := h
  cases listed : s.inputs with
  | nil => rw [listed] at long; cases long
  | cons i rest =>
    rw [listed] at long quiet used
    rw [State.sample_of_inputs listed, State.QuietFor, used]
    exact ⟨quiet i (by simp), Nat.le_of_succ_le_succ long,
      fun k hk => quiet k (by rw [List.take_succ_cons]; exact List.mem_cons_of_mem _ hk)⟩

/-- The machine at tick `t` of the frame with the digits `B`, the device having been `d0` before; at tick 1020 the frame
is over. -/
structure State.Rendering (d0 : Display) (B : Vector DigitCode 4) (t : Nat) (s : State) : Prop where
  inv : s.Inv
  place : t < 1020 → s.core.InFrame t
  ended : t = 1020 → s.core.rbusy = false
  fb : s.core.fb = frame hardware B
  shown : s.core.ShownBy d0 B s.disp
  quiet : s.QuietFor (1020 - t)

section
variable {d0 : Display} {B : Vector DigitCode 4} {s : State}

/-- A step of the machine is a tick of the frame. -/
theorem State.Rendering.step {t : Nat} (ht : t < 1020) (h : s.Rendering d0 B t) :
    ∃ u, Machine.step s = .next u ∧ u.Rendering d0 B (t + 1) := by
  have place := h.place ht
  have sending := place.sending
  obtain ⟨u, stepped, core, used, -⟩ := stepFollowsTheStepRule s
  have remaining : 1020 - t = 1020 - (t + 1) + 1 := by omega
  obtain ⟨rst, quiet⟩ := (remaining ▸ h.quiet).step used
  rw [Regs.step_of_sending rst place.timer sending] at core
  have ticked := step_eq_deliver s
  rw [Regs.step_of_sending rst place.timer sending, ← core] at ticked
  obtain ⟨d, delivered, shown⟩ := h.inv.core.serializer.shownBy_stepRender (s := { s.consume with core := u.core })
    sending h.fb ⟨h.inv.trans, h.inv.bits⟩ h.shown core
  have disp : u.disp = d := congrArg State.disp (Host.Outcome.next.inj (stepped.symm.trans (ticked.trans delivered)))
  obtain ⟨-, -, -, fb⟩ := s.core.stepRender_keeps hardware
  have next := place.stepRender
  rw [← core] at fb next
  refine ⟨u, stepped, stepKeepsTheMachineInvariant s u h.inv stepped, fun before => ?_, fun last => ?_, fb.trans h.fb,
    disp ▸ shown, quiet⟩
  · rcases next with ⟨ends, -⟩ | ⟨-, inside⟩
    · omega
    · exact inside
  · rcases next with ⟨-, idle, -⟩ | ⟨before, -⟩
    · exact ((Regs.busy_eq_false_iff _).mp idle).2
    · omega

/-- The accepted RENDER begins the frame: the strobe falls, and the device is as it was. -/
theorem State.rendering_of_accepted {v : Arg} (inv : s.Inv) (accepted : s.core.AcceptsRender s.sample v)
    (quiet : s.QuietFor 1021) :
    ∃ u, Machine.step s = .next u ∧ u.Rendering s.disp (split v.toNat) 0 := by
  obtain ⟨timer, serializer⟩ := s.core.busy_eq_false_iff.mp accepted.1
  obtain ⟨strobe, clock, -⟩ := inv.core.serializer.idlePins serializer
  obtain ⟨u, stepped, core, used, -⟩ := stepFollowsTheStepRule s
  have ticked := step_eq_deliver s
  rw [← core] at ticked
  rw [Regs.step_of_acceptsRender accepted] at core
  have untouched : Display.Shows s.disp (frame hardware (split v.toNat)) 0 0 s.disp :=
    ⟨(List.append_nil _).symm, nofun, nofun, fun _ => (if_neg (by omega)).symm, nofun, nofun⟩
  have noByte : s.disp.rx.received s.core.pins u.core.pins = none :=
    Receiver.received_none_of_clock _ _ _ (.inl (by rw [core]; exact clock))
  obtain ⟨d, delivered, shows⟩ := Display.Shows.deliver_quiet (s := { s.consume with core := u.core }) untouched
    (.inl strobe) noByte
  have disp : u.disp = d := congrArg State.disp (Host.Outcome.next.inj (stepped.symm.trans (ticked.trans delivered)))
  refine ⟨u, stepped, stepKeepsTheMachineInvariant s u inv stepped, fun _ => ?_, nofun, by rw [core]; rfl, ?_,
    (quiet.step used).2⟩
  · rw [core]
    exact Regs.inFrame_startRender timer v
  · rw [disp, core]
    exact shows

end

/-- Settles O44: the accepting step, 1020 ticks of the frame, and what the device then shows. -/
theorem receiverGetsTheFrame : Obligations.ReceiverGetsTheFrame := by
  intro s i rest v inv listed accepted long noReset
  have sampled := State.sample_of_inputs listed
  have quiet : s.QuietFor 1021 := by
    rw [State.QuietFor, listed]
    refine ⟨Nat.succ_le_succ long, fun k hk => ?_⟩
    rw [List.take_succ_cons, List.mem_cons] at hk
    rcases hk with rfl | hk
    · exact accepted.2.1
    · exact noReset k hk
  obtain ⟨u, stepped, begun⟩ := State.rendering_of_accepted inv (sampled ▸ accepted) quiet
  obtain ⟨t, ran, done⟩ := runFor_of_kept (P := State.Rendering s.disp (split v.toNat)) (n := 1020)
    (fun k hk _ => State.Rendering.step hk) begun
  have idle := done.ended rfl
  obtain ⟨bytes, bits⟩ := Regs.sent_of_idle idle
  obtain ⟨closed, autoInc, -, columns, latched, control⟩ := (Regs.shownBy_of_idle idle).mp done.shown
  obtain ⟨on, level⟩ := control le_rfl
  refine ⟨t, (State.runFor_succ stepped 1020).trans ran, done.inv.trans.trans bytes, done.inv.bits.trans bits, closed,
    columns 0, columns 1, columns 2, columns 3, columns 4, columns 5, columns 6, fun x beyond => ?_,
    latched (by decide), on, level, autoInc (by decide)⟩
  rw [columns x, if_neg (by omega)]

end Sys2Proof.Machine
end
